-- ==== Sys2Proof/Word.lean ====
section
/-! DEFINITION. The word types of LSK-CORE (00_scope.md R6, R8). -/

namespace Sys2Proof

/-- A byte of the frame, a micro-operation word or a command word: 8 bits (R8, R70, R73). -/
abbrev Byte := BitVec 8

/-- The contents of a result register: `RES_W` = 32 bits, two's complement (R6, R11). -/
abbrev Word := BitVec 32

end Sys2Proof
end

