-- ==== Sys2Proof/Config.lean ====
section
/-! DEFINITION. What an implementation fixes (the open parameter `L10_CURVE_ORDER`) and the free values: constants without a
body, for what the spec leaves unspecified. -/

namespace Sys2Proof

/-- The three weighting curves (R11), in the order in which R11 numbers them. -/
inductive Curve where
  | la | lc | lz
deriving DecidableEq, Repr

/-- The parameter `L10_CURVE_ORDER` (00_scope.md R6, 92_eei_decisions.md D6: OPEN): the order of the three curves inside a
format-10 frame, one constructor per permutation. `zac` is the default (LZ, LA, LC). -/
inductive CurveOrder where
  | zac | zca | azc | acz | cza | caz
deriving DecidableEq, Repr

/-- The bits of a frame-buffer byte that nothing has written since power-up (U2, R202): any value, one per address, because
reading is idempotent (R44). Free value, log entry 1. -/
opaque Config.powerUpByte : Nat → Byte

/-- What `SCALE` holds after a reset in operation (R29, U3): any value, a fresh one for each reset. Free value, log entry 4. -/
opaque Config.resetScale : Nat → Byte

/-- What `R[n]` holds after a reset in operation (R29, U3): any value, for each reset (first argument) and register (second).
Free value, log entry 4. -/
opaque Config.resetResult : Nat → Nat → Word

/-- What a host read returns where the spec gives no value: a reserved register number (U6), or any number while `reset` is
asserted (U4). A fresh value for each read. Free value, log entry 11. -/
opaque Config.unspecifiedRead : Nat → BitVec 8 → Word

/-- `PM(f)` for an `f` that is none of 22, 21, 10, which no rule states (R13). Free value, log entry 12. -/
opaque Config.unstatedMask : Byte → BitVec 39

end Sys2Proof
end

