-- ==== Sys2Proof/Syntax.lean ====
section
/-! DEFINITION. The instructions of LSK-CORE: one constructor per row of spec/opcode_table.json. -/

namespace Sys2Proof

/-- The instructions: the four commands (30_encoding.md R71) and the five micro-operations (R74). -/
inductive Instr where
  /-- `DEC22`: decode a scaled-byte frame (R150). -/
  | dec22
  /-- `DEC21`: decode a packed-summary frame (R151). -/
  | dec21
  /-- `DEC10`: decode a packed-peak frame (R152). -/
  | dec10
  /-- `DECNOP`: the warning-only no-op of every other discriminator `f` (R153); `f` is the command word itself. -/
  | decnop (f : Byte)
  /-- `RDS`: read the scale byte (R91). -/
  | rds
  /-- `RDB d`: byte-scaled read into `R[d]` (R93). -/
  | rdb (d : BitVec 6)
  /-- `RD12 d`: 12-bit packed read into `R[d]` (R96). -/
  | rd12 (d : BitVec 6)
  /-- `WGT`: derive the A and C spectra from the Z spectrum (R132). -/
  | wgt
  /-- `END`: publish the results and stop (R147). -/
  | endOp
deriving DecidableEq, Repr

/-- The two code spaces (00_scope.md R3): a command word is the value of `FMT` at `START` (R70), a micro-operation word is a
word of `LROM` (R73). -/
inductive Level where
  | command | micro
deriving DecidableEq, Repr

/-- The code space an instruction belongs to (R71, R74). -/
def Instr.level : Instr → Level
  | .dec22 => .command
  | .dec21 => .command
  | .dec10 => .command
  | .decnop _ => .command
  | .rds => .micro
  | .rdb _ => .micro
  | .rd12 _ => .micro
  | .wgt => .micro
  | .endOp => .micro

end Sys2Proof
end

