-- ==== Sys2Proof/WellFormed.lean ====
section
/-! DEFINITION. Which terms of `Instr` the spec's encodings admit. -/

namespace Sys2Proof

/-- The discriminators that select a layout (R71, R111): 22, 21 and 10. -/
def recognised (f : Byte) : Bool := f == 22#8 || f == 21#8 || f == 10#8

/-- A destination of `RDB` or `RD12` is a result register number 0 … 38 (R73, R75). -/
def destinationOk (d : BitVec 6) : Bool := decide (d.toNat < 39)

/-- An instruction term is well formed: its destination names a result register (R75), and `DECNOP` carries a discriminator
that no other command owns (R71). -/
def Instr.wellFormed : Instr → Bool
  | .dec22 => true
  | .dec21 => true
  | .dec10 => true
  | .decnop f => !recognised f
  | .rds => true
  | .rdb d => destinationOk d
  | .rd12 d => destinationOk d
  | .wgt => true
  | .endOp => true

end Sys2Proof
end

