-- ==== Sys2Proof/Decode.lean ====
section
/-! DEFINITION. The decoder of both code spaces, total and rejecting by name, and the encoder. -/

namespace Sys2Proof

/-- Why a micro-operation word is reserved (30_encoding.md R75). -/
inductive Reserved where
  /-- `00 dddddd` with d ≠ 0: words 0x01 … 0x3F. -/
  | scaleDestination
  /-- `01 dddddd` or `10 dddddd` with d ≥ 39: words 0x67 … 0x7F and 0xA7 … 0xBF. -/
  | resultDestination
  /-- `11 dddddd` with d ≥ 2: words 0xC2 … 0xFF. -/
  | subOpcode
deriving DecidableEq, Repr

/-- The decoder's answer: an instruction, or the reason a word is reserved (R75). -/
inductive Decoded where
  | instr (i : Instr)
  | reserved (why : Reserved)
deriving DecidableEq, Repr

/-- The `op` field of a micro-operation word, bits 7:6 (R73). -/
def opField (w : Byte) : BitVec 2 := w.extractLsb' 6 2

/-- The `dest` field of a micro-operation word, bits 5:0 (R73). -/
def destField (w : Byte) : BitVec 6 := w.extractLsb' 0 6

/-- The micro-operation opcode map (R74) with its reserved words (R75). -/
def decodeUop (w : Byte) : Decoded :=
  if opField w = 0b00#2 then
    if destField w = 0#6 then .instr .rds else .reserved .scaleDestination
  else if opField w = 0b01#2 then
    if destinationOk (destField w) then .instr (.rdb (destField w)) else .reserved .resultDestination
  else if opField w = 0b10#2 then
    if destinationOk (destField w) then .instr (.rd12 (destField w)) else .reserved .resultDestination
  else
    if destField w = 0#6 then .instr .wgt
    else if destField w = 1#6 then .instr .endOp
    else .reserved .subOpcode

/-- The command opcode map (R71): total, because every discriminator is legal (R72). -/
def decodeCommand (f : Byte) : Instr :=
  if f = 22#8 then .dec22
  else if f = 21#8 then .dec21
  else if f = 10#8 then .dec10
  else .decnop f

/-- The decoder of a word in its code space. -/
def decode (l : Level) (w : Byte) : Decoded :=
  match l with
  | .command => .instr (decodeCommand w)
  | .micro => decodeUop w

/-- The word of an instruction (R70, R71, R73, R74): the command's discriminator, or `op` above `dest`. -/
def encode : Instr → Byte
  | .dec22 => 22#8
  | .dec21 => 21#8
  | .dec10 => 10#8
  | .decnop f => f
  | .rds => 0b00#2 ++ 0#6
  | .rdb d => 0b01#2 ++ d
  | .rd12 d => 0b10#2 ++ d
  | .wgt => 0b11#2 ++ 0#6
  | .endOp => 0b11#2 ++ 1#6

/-- The instruction a bare 8-bit word of the opcode table stands for, where no code space is given. One word value can name a
micro-operation AND a command (R70, R73 use the same 256 values): the micro-operation is taken where the word is one, the
command otherwise (log entry 13). -/
def decodeAnyLevel (w : Byte) : Instr :=
  match decodeUop w with
  | .instr i => i
  | .reserved _ => decodeCommand w

/-- The instruction read from an opcode-table word of `nbits` bits; every row of the table has 8. -/
def decodeTableWord (nbits w : Nat) : Option Instr :=
  if nbits = 8 ∧ w < 256 then some (decodeAnyLevel (BitVec.ofNat 8 w)) else none

end Sys2Proof
end

