-- ==== Sys2Proof/Machine/Layout.lean ====
section
/-! DEFINITION. The numbering of the result registers (10_state.md R11, R12), and everything a layout fixes: the programs and
the contents of `LROM` (41_layouts.md R112 to R117), presence masks (R13), units (R21) and least frame lengths (R120). -/

namespace Sys2Proof.Machine

/-- The slots of a curve (R11): four summary slots and the nine bands of its spectrum. -/
inductive Slot where
  | min | max | avg | peak
  | spec (k : Fin 9)
deriving DecidableEq, Repr

/-- The curve numbers of R11: `LA` = 0, `LC` = 1, `LZ` = 2. -/
def curveNumber : Curve → Nat
  | .la => 0
  | .lc => 1
  | .lz => 2

/-- The slot numbers of R11: `MIN` = 0, `MAX` = 1, `AVG` = 2, `PEAK` = 3, `SPECk` = 4 + k. -/
def slotNumber : Slot → Nat
  | .min => 0
  | .max => 1
  | .avg => 2
  | .peak => 3
  | .spec k => 4 + k.val

/-- The number of a named result register: n = 13 · curve + slot (R11, R12). -/
def resultNumber (c : Curve) (t : Slot) : Nat := 13 * curveNumber c + slotNumber t

/-- The same number as a `dest` field (R73). -/
def destination (c : Curve) (t : Slot) : BitVec 6 := BitVec.ofNat 6 (resultNumber c t)

/-- The curve of register `n`: n div 13 (R11). -/
def curveOf (n : Nat) : Curve :=
  if n / 13 = 0 then .la else if n / 13 = 1 then .lc else .lz

/-- The curve that stands at place m = 0, 1, 2 of a format-10 frame (R6, R65, R117). -/
def orderCurves : CurveOrder → List Curve
  | .zac => [.lz, .la, .lc]
  | .zca => [.lz, .lc, .la]
  | .azc => [.la, .lz, .lc]
  | .acz => [.la, .lc, .lz]
  | .cza => [.lc, .lz, .la]
  | .caz => [.lc, .la, .lz]

/-- The place m of a curve in a format-10 frame: the inverse of `orderCurves`. -/
def orderPlace : CurveOrder → Curve → Nat
  | .zac, .lz => 0
  | .zac, .la => 1
  | .zac, .lc => 2
  | .zca, .lz => 0
  | .zca, .lc => 1
  | .zca, .la => 2
  | .azc, .la => 0
  | .azc, .lz => 1
  | .azc, .lc => 2
  | .acz, .la => 0
  | .acz, .lc => 1
  | .acz, .lz => 2
  | .cza, .lc => 0
  | .cza, .lz => 1
  | .cza, .la => 2
  | .caz, .lc => 0
  | .caz, .la => 1
  | .caz, .lz => 2

/-- The `(min, max, avg)` slots in the order of the frame (R63, R64). -/
def summaryTriple : List Slot := [.min, .max, .avg]

/-- The nine spectrum slots in band order (R11). -/
def spectrumSlots : List Slot := (List.finRange 9).map Slot.spec

/-- The program `L22` (R115): `RDS`, the A, C and Z triples, the Z spectrum, `WGT`, `END`. -/
def programL22 : List Instr :=
  [.rds]
    ++ [Curve.la, Curve.lc, Curve.lz].flatMap (fun c => summaryTriple.map fun t => .rdb (destination c t))
    ++ spectrumSlots.map (fun t => .rdb (destination .lz t))
    ++ [.wgt, .endOp]

/-- The program `L21` (R116): the Z triple, the Z spectrum, `WGT`, `END`. -/
def programL21 : List Instr :=
  (summaryTriple ++ spectrumSlots).map (fun t => .rd12 (destination .lz t)) ++ [.wgt, .endOp]

/-- The program `L10` (R117): for each curve of the order its spectrum, peak and average, then `END`. -/
def programL10 (o : CurveOrder) : List Instr :=
  (orderCurves o).flatMap (fun c => (spectrumSlots ++ [Slot.peak, Slot.avg]).map fun t => .rd12 (destination c t))
    ++ [.endOp]

/-- The contents of `LROM` (R113): the three programs end to end, as words. -/
def lromImage (o : CurveOrder) : List Byte :=
  (programL22 ++ programL21 ++ programL10 o).map encode

/-- `LBASE(FMT)` (R112). `START` does not use it for another value (R112), where this function is 0. -/
def lbase (f : Byte) : BitVec 7 :=
  if f = 22#8 then 0x00#7 else if f = 21#8 then 0x15#7 else if f = 10#8 then 0x23#7 else 0x00#7

/-- The `LROM` address of a layout's `END` word (R113), where `SEQ` stands when a decode has succeeded (R147). -/
def lend (f : Byte) : BitVec 7 :=
  if f = 22#8 then 0x14#7 else if f = 21#8 then 0x22#7 else if f = 10#8 then 0x44#7 else 0x00#7

/-- `PM(FMT)`, the presence mask of a layout (R13); for an unrecognised `FMT` no rule states it (log entry 12). -/
def presenceMask (f : Byte) : BitVec 39 :=
  if f = 22#8 then 0x7FDFFEFFF7#39
  else if f = 21#8 then 0x7FDFFE1FF0#39
  else if f = 10#8 then 0x7FF3FF9FFC#39
  else Config.unstatedMask f

/-- The value `END` gives `UNIT` (R147): 510 for format 22, 10 otherwise. -/
def unitOf (f : Byte) : BitVec 10 := if f = 22#8 then 510#10 else 10#10

/-- `REQ(f)`, the least `LEN` with which a layout decodes (R120). -/
def leastLength (f : Byte) : Nat :=
  if f = 22#8 then 19 else if f = 21#8 then 18 else if f = 10#8 then 50 else 0

/-- The greatest number of sequencer steps of a decode (R143). -/
def stepBound (f : Byte) : Nat :=
  if f = 22#8 then 21 else if f = 21#8 then 14 else if f = 10#8 then 34 else 0

/-- The name of a curve in R12. -/
def curveName : Curve → String
  | .la => "LA"
  | .lc => "LC"
  | .lz => "LZ"

/-- The name of slot number `t` in R12. -/
def slotName (t : Nat) : String :=
  if t = 0 then "MIN" else if t = 1 then "MAX" else if t = 2 then "AVG" else if t = 3 then "PEAK"
  else "SPEC" ++ toString (t - 4)

/-- The name of result register `n` (R12). -/
def resultName (n : Nat) : String := curveName (curveOf n) ++ "_" ++ slotName (n % 13)

/-- The written form of an instruction (R77 for micro-operations, R78 for commands). -/
def assembly : Instr → String
  | .dec22 => "DEC22"
  | .dec21 => "DEC21"
  | .dec10 => "DEC10"
  | .decnop f => "DECNOP " ++ toString f.toNat
  | .rds => "RDS"
  | .rdb d => "RDB " ++ resultName d.toNat
  | .rd12 d => "RD12 " ++ resultName d.toNat
  | .wgt => "WGT"
  | .endOp => "END"

end Sys2Proof.Machine
end

