-- ==== Sys2Proof/Machine/State.lean ====
section
/-! DEFINITION. The state of one LSK-CORE instance as plain data (10_state.md R10), the reasons a step can stop, and the state
right after reset (R29). -/

namespace Sys2Proof.Machine

/-- The frame buffer's contents: (address, byte) pairs, addresses strictly rising and below 128, one pair for each byte the host
has written since power-up (R25, R202). An unlisted address has no stored value (log entry 1). -/
abbrev Memory := List Host.Cell

/-- One action of the host agent (R10, R26, R78, R200). The host's pending actions are a list in the state, which says when each
of them happens against the sequencer's steps (log entry 9). -/
inductive HostOp where
  /-- The host does nothing in this step, and the sequencer may take its step. -/
  | pause
  /-- A write of `v` to host register number `n` (R26); writing `CTRL` bit 0 is `START` (R20). -/
  | write (n : BitVec 8) (v : Word)
  /-- A read of host register number `n` (R26). -/
  | read (n : BitVec 8)
  /-- `START` taken at the command level: the whole decode as one atomic step (R3, R211, log entry 7). -/
  | command
  /-- The script line `WAIT` (R78): read `STATUS` until `DONE` = 1. -/
  | wait
  /-- Assert (`true`) or release (`false`) the `reset` input (R200). -/
  | reset (level : Bool)
deriving DecidableEq, Repr

/-- What the last host read answered. -/
inductive HostReply where
  /-- No host read has happened yet. -/
  | nothing
  /-- The register's value, upper bits 0 (R26). -/
  | value (v : Word)
  /-- The register has no value: a result register whose presence bit is 0 (R14, U1). -/
  | noValue
deriving DecidableEq, Repr

/-- The reasons the machine stops with a fault. `BufferTooShort` is no fault of the model: it is taken as a next state (R172). -/
inductive Fault where
  /-- Raised by the sequencer's fetch when `SEQ` names an `LROM` address that does not exist (R75, U5). Safe: the spec gives no
  effect there, and no run from reset reaches it. -/
  | fetchOutsideRom
deriving DecidableEq, Repr

/-- The reasons the machine refuses. -/
inductive Refusal where
  /-- An instruction that has no meaning in the model yet; no arm of `exec` answers so. Safe. -/
  | notModelled (mnemonic : String)
  /-- Raised by the sequencer, or by a read micro-operation with a destination above 38, for a reserved micro-operation word
  (R75, U5: the step function has no case for it). Safe: no run from reset reaches it. -/
  | reservedWord (w : Byte)
deriving DecidableEq, Repr

/-- The complete state of one instance (R10), the configuration it carries (R28), and the model's own fields. -/
structure State where
  /-- `FB`, the frame buffer (R25). -/
  fb : Memory
  /-- `LEN`, the number of valid bytes of the frame (R18). -/
  len : BitVec 7
  /-- `FMT`, the format discriminator and command word (R19). -/
  fmt : Byte
  /-- `STATUS.BUSY`, bit 0 (R17). -/
  busy : Bool
  /-- `STATUS.DONE`, bit 1 (R17). -/
  done : Bool
  /-- `STATUS.ERR`, bit 2 (R17). -/
  err : Bool
  /-- `STATUS.WARN`, bit 3 (R17). -/
  warn : Bool
  /-- `UNIT`, the denominator of every present result (R21). -/
  unit : BitVec 10
  /-- `PRESENT`, one bit per result register (R13). -/
  present : BitVec 39
  /-- `R[0 … 38]`, the result registers (R11). -/
  r : Vector Word 39
  /-- `CUR`, the cursor: a nibble index (R15). -/
  cur : BitVec 8
  /-- `SEQ`, the sequencer counter (R16). -/
  seq : BitVec 7
  /-- `SCALE`, the raw scale byte (R22). -/
  scale : Byte
  /-- The level of the `reset` input (R200). -/
  resetIn : Bool
  /-- The contents of `LROM` (R24). Configuration: no step changes it (log entry 5). -/
  lrom : List Byte
  /-- The parameter `L10_CURVE_ORDER` (R6, D6). Configuration: no step changes it (log entry 6). -/
  order : CurveOrder
  /-- The host's pending actions, oldest first (the model's own, log entry 9). -/
  host : List HostOp
  /-- What the last host read answered (the model's own, log entry 16). -/
  reply : HostReply
  /-- Counts the free values used so far (the model's own, log entry 16). -/
  free : Nat
deriving DecidableEq, Repr

/-- The machine right after power-up reset, the `reset` line released again (R29, R200). `R[]` and `SCALE` are unspecified there:
the zeros are the model's choice (log entries 2 and 3). -/
def State.reset : State where
  fb := []
  len := 0#7
  fmt := 0#8
  busy := false
  done := false
  err := false
  warn := false
  unit := 0#10
  present := 0#39
  r := Vector.replicate 39 0#32
  cur := 0#8
  seq := 0#7
  scale := 0#8
  resetIn := false
  lrom := lromImage .zac
  order := .zac
  host := []
  reply := .nothing
  free := 0

end Sys2Proof.Machine
end

