-- ==== Sys2Proof/Machine/Ops.lean ====
section
/-! DEFINITION. The named operations over the frame buffer and the registers, taking `BufferTooShort`, `START`, publishing the
results, and reset. -/

namespace Sys2Proof.Machine

/-- The byte stored at an address, if one has been written since power-up (R202). -/
def Memory.stored : Memory → Nat → Option Byte
  | [], _ => none
  | c :: cs, a => if c.1 = a then some c.2 else Memory.stored cs a

/-- What reading byte `a` of `FB` gives: the stored byte, or the free value of a byte never written (U2, log entry 1). -/
def Memory.read (m : Memory) (a : Nat) : Byte := (Memory.stored m a).getD (Config.powerUpByte a)

/-- `FB[a] <- v` (R8 `MemWrite`), keeping the addresses strictly rising. -/
def Memory.write : Memory → Nat → Byte → Memory
  | [], a, v => [(a, v)]
  | c :: cs, a, v =>
    if a < c.1 then (a, v) :: c :: cs
    else if a = c.1 then (a, v) :: cs
    else c :: Memory.write cs a v

/-- Every address of the list lies above `a`, and they rise strictly. -/
def Memory.risingAbove : Nat → Memory → Bool
  | _, [] => true
  | a, c :: cs => decide (a < c.1) && Memory.risingAbove c.1 cs

/-- The canonical form: addresses strictly rising, all of them below 128 (R25). -/
def Memory.wf (m : Memory) : Bool :=
  (match m with
    | [] => true
    | c :: cs => Memory.risingAbove c.1 cs)
  && m.all fun c => decide (c.1 < 128)

/-- The register `R[n]`, whatever its presence bit (R11). -/
def State.getResult (s : State) (n : Fin 39) : Word := s.r[n.val]

/-- `R[n] <- w` (R11). -/
def State.setResult (s : State) (n : Fin 39) (w : Word) : State := { s with r := s.r.set n.val w }

/-- `R[0 … 38] <- v`, all at once (R132: one step). -/
def State.setResults (s : State) (v : Vector Word 39) : State := { s with r := v }

/-- The result `n`: the register's word where its presence bit is 1, no value where it is 0 (R13, R14). -/
def State.result? (s : State) (n : Fin 39) : Option Word :=
  if s.present.getLsbD n.val then some (s.getResult n) else none

/-- The end of a micro-operation that completed: the cursor advances by `nibbles` (R15) and `SEQ <- SEQ + 1` (R16). -/
def State.advance (s : State) (nibbles : Nat) : State :=
  { s with cur := s.cur + BitVec.ofNat 8 nibbles, seq := s.seq + 1#7 }

/-- Taking `BufferTooShort` (60_exceptions.md R172): three status bits change and nothing else. There is no handler, no saved
state and no return instruction (R172, R178). -/
def bufferTooShort (s : State) : State := { s with err := true, done := true, busy := false }

/-- What every `START` that is accepted does first (R141): everything of the previous decode is discarded. -/
def clearDecode (s : State) : State :=
  { s with done := false, err := false, warn := false, present := 0#39, unit := 0#10, cur := 0#8 }

/-- `START` with a recognised discriminator (R141). -/
def beginDecode (s : State) : State := { clearDecode s with seq := lbase s.fmt, busy := true }

/-- `START` with an unrecognised discriminator (R141, R174). -/
def warnUnrecognised (s : State) : State := { clearDecode s with warn := true, done := true }

/-- `START` (43_frame_decoder.md R141): ignored while busy (R20). -/
def start (s : State) : State :=
  if s.busy then s
  else if recognised s.fmt then beginDecode s
  else warnUnrecognised s

/-- Publishing the results of layout `f` (R147): the presence mask and the unit are written together with `DONE`. -/
def publish (f : Byte) (s : State) : State :=
  { s with present := presenceMask f, unit := unitOf f, busy := false, done := true }

/-- Asserting `reset` (R200, R201): the reset state of R29. `FB`, the ROM and the host's side are not written (R202); `SCALE` and
`R[]` become unspecified, so they take free values (log entry 4). -/
def assertReset (s : State) : State :=
  { s with
    resetIn := true
    busy := false, done := false, err := false, warn := false
    present := 0#39, unit := 0#10, len := 0#7, fmt := 0#8, cur := 0#8, seq := 0#7
    scale := Config.resetScale s.free
    r := Vector.ofFn fun n => Config.resetResult s.free n.val
    free := s.free + 1 }

/-- Releasing `reset` (R200): the block is idle. -/
def releaseReset (s : State) : State := { s with resetIn := false }

end Sys2Proof.Machine
end

