-- ==== Sys2Proof/Machine/Operands.lean ====
section
/-! DEFINITION. The operand forms of the field readers (40_field_readers.md): the byte at the cursor, the packed 12-bit field, and
the value each becomes in a result register. -/

namespace Sys2Proof.Machine

/-- The byte a nibble index points into: `i >> 1` (R15, R92, R95). -/
def byteOf (i : Nat) : Nat := i / 2

/-- Whether a byte read at nibble index `i` fits a frame of `len` bytes (R91, R93, R171). -/
def byteFits (i len : Nat) : Bool := decide (byteOf i < len)

/-- Whether a 12-bit read at nibble index `i` fits a frame of `len` bytes (R94, conflict C3). -/
def fieldFits (i len : Nat) : Bool := decide (byteOf i + 2 ≤ len)

/-- The packed-nibble multiplexer for an even nibble index (R95): all of `b0`, then the high nibble of `b1`. -/
def evenField (b0 b1 : Byte) : BitVec 12 := (b0.setWidth 12 <<< 4) ||| (b1.setWidth 12 >>> 4)

/-- The packed-nibble multiplexer for an odd nibble index (R95): the low nibble of `b0`, then all of `b1`. -/
def oddField (b0 b1 : Byte) : BitVec 12 := ((b0 &&& 0x0F#8).setWidth 12 <<< 8) ||| b1.setWidth 12

/-- `Extract12(i)` (R95): the select input is the parity of `i`. -/
def extract12 (m : Memory) (i : Nat) : BitVec 12 :=
  if i % 2 = 0 then evenField (Memory.read m (byteOf i)) (Memory.read m (byteOf i + 1))
  else oddField (Memory.read m (byteOf i)) (Memory.read m (byteOf i + 1))

/-- Sign extension (R97): OR with 0xFFFFF000 where bit 11 is set. -/
def sext12 (u : BitVec 12) : Word :=
  if u &&& 0x800#12 ≠ 0#12 then u.setWidth 32 ||| 0xFFFFF000#32 else u.setWidth 32

/-- The magnitude scaler (R93): 2 · s · r, exact, as an unsigned 32-bit word. -/
def scaledWord (s r : Byte) : Word := BitVec.ofNat 32 (2 * (s.toNat * r.toNat))

/-- A byte read (R90, R91, R93): check first; then either `BufferTooShort` and nothing else, or the effect `k` of the byte, with
the cursor advanced by 2. -/
def readByteField (k : Byte → State → State) (s : State) : State :=
  if byteFits s.cur.toNat s.len.toNat then (k (Memory.read s.fb (byteOf s.cur.toNat)) s).advance 2
  else bufferTooShort s

/-- A 12-bit read (R90, R94, R96): check first; then either `BufferTooShort` and nothing else, or the effect `k` of the field,
with the cursor advanced by 3. -/
def readPackedField (k : BitVec 12 → State → State) (s : State) : State :=
  if fieldFits s.cur.toNat s.len.toNat then (k (extract12 s.fb s.cur.toNat) s).advance 3
  else bufferTooShort s

end Sys2Proof.Machine
end

