-- ==== Sys2Proof/Machine/Weighter.lean ====
section
/-! DEFINITION. The spectrum weighter: the weighting ROM (42_weighting.md R130, R131) and `WGT` (R132). -/

namespace Sys2Proof.Machine

/-- `A10[0 … 8]`, the A-weighting offsets in tenths of a decibel (R130). -/
def tableA10 : List Int := [-394, -262, -161, -86, -32, 0, 12, 10, -11]

/-- `C10[0 … 8]`, the C-weighting offsets in tenths of a decibel (R131). -/
def tableC10 : List Int := [-30, -8, -2, 0, 0, 0, 2, 3, -30]

/-- `A10[k]` (R130); bands are 0 … 8 (R133). -/
def a10 (k : Nat) : Int := tableA10.getD k 0

/-- `C10[k]` (R131); bands are 0 … 8 (R133). -/
def c10 (k : Nat) : Int := tableC10.getD k 0

/-- The multiplier `m` of R132: 51 in format 22, 1 otherwise. -/
def weightFactor (f : Byte) : Int := if f = 22#8 then 51 else 1

/-- What `R[n]` holds after `WGT` (R132): band k of the A spectrum (n = 4 + k) and of the C spectrum (n = 17 + k) is the Z band
`R[30 + k]` plus its offset, a 32-bit addition; every other register is as before. All lanes read the registers as they were. -/
def weightedWord (m : Int) (r : Vector Word 39) (n : Fin 39) : Word :=
  if h : 4 ≤ n.val ∧ n.val ≤ 12 then r[n.val + 26] + BitVec.ofInt 32 (m * a10 (n.val - 4))
  else if h : 17 ≤ n.val ∧ n.val ≤ 25 then r[n.val + 13] + BitVec.ofInt 32 (m * c10 (n.val - 17))
  else r[n.val]

/-- `WGT` (R132): nine lanes in one step; `CUR` is not changed, no flag is written. -/
def execWgt (s : State) : Host.Outcome State Fault Refusal :=
  .next ((s.setResults (Vector.ofFn (weightedWord (weightFactor s.fmt) s.r))).advance 0)

end Sys2Proof.Machine
end

