-- ==== Sys2Proof/Machine/Commands.lean ====
section
/-! DEFINITION. `END` (43_frame_decoder.md R147) and the four commands as total functions (R150 to R153). The command meanings are
written from R150 to R153 alone, not from the layout programs; that the two levels agree (R154) is a statement. -/

namespace Sys2Proof.Machine

/-- `END` (R147): `SEQ` and `CUR` are unchanged. -/
def execEnd (s : State) : Host.Outcome State Fault Refusal := .next (publish s.fmt s)

/-- Packed field `j` of a frame (R61, R151): `sext_12(Extract12(3·j))` as an integer. -/
def packedField (m : Memory) (j : Nat) : Int := (sext12 (extract12 m (3 * j))).toInt

/-- Byte `a` of the frame as an integer. -/
def frameByte (m : Memory) (a : Nat) : Int := (Memory.read m a).toNat

/-- The table offset that curve `c` adds to band `k`: A10, C10, and 0 for the Z spectrum itself (R150, R151). -/
def curveOffset (c : Curve) (k : Nat) : Int :=
  match c with
  | .la => a10 k
  | .lc => c10 k
  | .lz => 0

/-- The result `q` of register `n` in a format-22 decode (R150), none where it is absent. -/
def value22 (m : Memory) (n : Nat) : Option Int :=
  if n % 13 < 3 then some (2 * frameByte m 0 * frameByte m (1 + 3 * (n / 13) + n % 13))
  else if n % 13 = 3 then none
  else some (2 * frameByte m 0 * frameByte m (10 + (n % 13 - 4)) + 51 * curveOffset (curveOf n) (n % 13 - 4))

/-- The result `q` of register `n` in a format-21 decode (R151), none where it is absent. -/
def value21 (m : Memory) (n : Nat) : Option Int :=
  if n % 13 < 3 then (if curveOf n = .lz then some (packedField m (n % 13)) else none)
  else if n % 13 = 3 then none
  else some (packedField m (3 + (n % 13 - 4)) + curveOffset (curveOf n) (n % 13 - 4))

/-- The result `q` of register `n` in a format-10 decode with curve order `o` (R152), none where it is absent. -/
def value10 (o : CurveOrder) (m : Memory) (n : Nat) : Option Int :=
  if n % 13 < 2 then none
  else if n % 13 = 2 then some (packedField m (11 * orderPlace o (curveOf n) + 10))
  else if n % 13 = 3 then some (packedField m (11 * orderPlace o (curveOf n) + 9))
  else some (packedField m (11 * orderPlace o (curveOf n) + (n % 13 - 4)))

/-- The registers after a decode that produced the results `q`; a register without a result keeps its bits. -/
def storeResults (q : Nat → Option Int) (r : Vector Word 39) : Vector Word 39 :=
  Vector.ofFn fun n => match q n.val with
    | some v => BitVec.ofInt 32 v
    | none => r[n.val]

/-- The state after a whole decode of layout `f` that failed (R150 to R152, outcome error): no result, and no partial result
either (R172, R173). `CUR` and `SEQ` stay as `START` set them (log entry 8). -/
def failedDecode (f : Byte) (s : State) : State := bufferTooShort { clearDecode s with seq := lbase f }

/-- The state after a whole decode of layout `f` with the results `q` (R150 to R152, outcome data; R147). `CUR`, `SEQ` and `SCALE`
end where the layout program leaves them. -/
def finishedDecode (f : Byte) (endCur : BitVec 8) (scale : Byte) (q : Nat → Option Int) (s : State) : State :=
  publish f { clearDecode s with r := storeResults q s.r, scale := scale, cur := endCur, seq := lend f }

/-- A whole decode of layout `f` as one step: ignored while busy (R20); outcome error below the least length (R120); otherwise
outcome data. -/
def decodeFrame (f : Byte) (endCur : BitVec 8) (scale : Byte) (q : Nat → Option Int) (s : State) : State :=
  if s.busy then s
  else if s.len.toNat < leastLength f then failedDecode f s
  else finishedDecode f endCur scale q s

/-- `DEC22` (R150). -/
def execDec22 (s : State) : Host.Outcome State Fault Refusal :=
  .next (decodeFrame 22#8 38#8 (Memory.read s.fb 0) (value22 s.fb) s)

/-- `DEC21` (R151). -/
def execDec21 (s : State) : Host.Outcome State Fault Refusal :=
  .next (decodeFrame 21#8 36#8 s.scale (value21 s.fb) s)

/-- `DEC10` (R152). -/
def execDec10 (s : State) : Host.Outcome State Fault Refusal :=
  .next (decodeFrame 10#8 99#8 s.scale (value10 s.order s.fb) s)

/-- `DECNOP` (R153): the warning and nothing else; no byte of `FB` is read, `LEN` is not looked at. Ignored while busy (R20). -/
def execDecnop (s : State) : Host.Outcome State Fault Refusal :=
  .next (if s.busy then s else warnUnrecognised s)

end Sys2Proof.Machine
end

