-- ==== Sys2Proof/Machine/Readers.lean ====
section
/-! DEFINITION. The field readers `RDS`, `RDB` and `RD12` (40_field_readers.md). -/

namespace Sys2Proof.Machine

/-- The register a `dest` field names, or the refusal of a reserved destination (R75, U5). -/
def withDestination (w : Byte) (d : BitVec 6) (k : Fin 39 → State) : Host.Outcome State Fault Refusal :=
  if h : d.toNat < 39 then .next (k ⟨d.toNat, h⟩) else .refused (.reservedWord w)

/-- `RDS` (R91): `SCALE` takes the byte at the cursor. -/
def execRds (s : State) : Host.Outcome State Fault Refusal :=
  .next (readByteField (fun b t => { t with scale := b }) s)

/-- `RDB d` (R93): `R[d] <- 2 · SCALE · r` for the byte `r` at the cursor. -/
def execRdb (d : BitVec 6) (s : State) : Host.Outcome State Fault Refusal :=
  withDestination (encode (.rdb d)) d fun n =>
    readByteField (fun b t => t.setResult n (scaledWord t.scale b)) s

/-- `RD12 d` (R96): `R[d]` takes the sign-extended 12-bit field at the cursor. -/
def execRd12 (d : BitVec 6) (s : State) : Host.Outcome State Fault Refusal :=
  withDestination (encode (.rd12 d)) d fun n =>
    readPackedField (fun u t => t.setResult n (sext12 u)) s

end Sys2Proof.Machine
end

