-- ==== Sys2Proof/Machine/Dispatch.lean ====
section
/-! DEFINITION. One arm per instruction. -/

namespace Sys2Proof.Machine

def exec (i : Instr) (s : State) : Host.Outcome State Fault Refusal :=
  match i with
  | .dec22 => Sys2Proof.Machine.execDec22 s
  | .dec21 => Sys2Proof.Machine.execDec21 s
  | .dec10 => Sys2Proof.Machine.execDec10 s
  | .decnop _ => Sys2Proof.Machine.execDecnop s
  | .rds => Sys2Proof.Machine.execRds s
  | .rdb d => Sys2Proof.Machine.execRdb d s
  | .rd12 d => Sys2Proof.Machine.execRd12 d s
  | .wgt => Sys2Proof.Machine.execWgt s
  | .endOp => Sys2Proof.Machine.execEnd s

end Sys2Proof.Machine
end

