-- ==== Sys2Proof/Machine/Flags.lean ====
section
/-! DEFINITION. The status register read whole, the output line and the outcomes of a decode. The block has no arithmetic flags
(R10): every flag it has is a bit of `STATUS` or of `PRESENT`. -/

namespace Sys2Proof.Machine

/-- `STATUS` as a 4-bit word (R17): `BUSY` bit 0, `DONE` bit 1, `ERR` bit 2, `WARN` bit 3. -/
def State.statusWord (s : State) : BitVec 4 :=
  BitVec.ofBool s.warn ++ BitVec.ofBool s.err ++ BitVec.ofBool s.done ++ BitVec.ofBool s.busy

/-- The output line `irq_done`: it equals `STATUS.DONE` at all times (R177). -/
def State.irqDone (s : State) : Bool := s.done

/-- `PRESENT_LO` = `PRESENT[31:0]` (R13). -/
def State.presentLo (s : State) : Word := s.present.extractLsb' 0 32

/-- `PRESENT_HI` = `PRESENT[38:32]`, upper bits 0 (R13). -/
def State.presentHi (s : State) : Word := (s.present.extractLsb' 32 7).setWidth 32

/-- Outcome data (R148): `DONE`, neither `ERR` nor `WARN`. -/
def State.outcomeData (s : State) : Bool := s.done && !s.err && !s.warn

/-- Outcome error (R148). -/
def State.outcomeError (s : State) : Bool := s.done && s.err && !s.warn

/-- Outcome no-op (R148). -/
def State.outcomeNoOp (s : State) : Bool := s.done && s.warn && !s.err

end Sys2Proof.Machine
end

