-- ==== Sys2Proof/Machine/HostPort.lean ====
section
/-! DEFINITION. The host register port (10_state.md R26), and the host script lines (30_encoding.md R78) as host actions. -/

namespace Sys2Proof.Machine

/-- The host register numbers of R26 above the frame buffer. -/
def regLEN : BitVec 8 := 0x80#8
def regFMT : BitVec 8 := 0x81#8
def regCTRL : BitVec 8 := 0x82#8
def regSTATUS : BitVec 8 := 0x83#8
def regUNIT : BitVec 8 := 0x84#8
def regPRESENTLO : BitVec 8 := 0x85#8
def regPRESENTHI : BitVec 8 := 0x86#8

/-- The host register number of `R[n]`: 0xC0 + n (R26). -/
def regResult (n : Fin 39) : BitVec 8 := BitVec.ofNat 8 (0xC0 + n.val)

/-- A host write (R26): dropped while busy (R208); bits above the register's width ignored (D28); `CTRL` bit 0 is `START` (R20);
writes to read-only and reserved numbers ignored (R26, U6). -/
def writeRegister (n : BitVec 8) (v : Word) (s : State) : State :=
  if s.busy then s
  else if n.toNat < 128 then { s with fb := Memory.write s.fb n.toNat (v.setWidth 8) }
  else if n = regLEN then { s with len := v.setWidth 7 }
  else if n = regFMT then { s with fmt := v.setWidth 8 }
  else if n = regCTRL then (if v.getLsbD 0 then start s else s)
  else s

/-- What a result register reads as: its word, or no value where its presence bit is 0 (R14). -/
def replyOfResult (s : State) (n : Fin 39) : HostReply :=
  match s.result? n with
  | some w => .value w
  | none => .noValue

/-- What a host read of register number `n` answers (R26); a reserved number gives a free value (U6). -/
def readRegister (n : BitVec 8) (s : State) : HostReply :=
  if n.toNat < 128 then .value ((Memory.read s.fb n.toNat).setWidth 32)
  else if n = regLEN then .value (s.len.setWidth 32)
  else if n = regFMT then .value (s.fmt.setWidth 32)
  else if n = regCTRL then .value 0#32
  else if n = regSTATUS then .value (s.statusWord.setWidth 32)
  else if n = regUNIT then .value (s.unit.setWidth 32)
  else if n = regPRESENTLO then .value s.presentLo
  else if n = regPRESENTHI then .value s.presentHi
  else if h : 192 ≤ n.toNat ∧ n.toNat < 231 then replyOfResult s ⟨n.toNat - 192, by omega⟩
  else .value (Config.unspecifiedRead s.free n)

/-- A host write at the port: ignored while `reset` is asserted (R200). -/
def portWrite (n : BitVec 8) (v : Word) (s : State) : State :=
  if s.resetIn then s else writeRegister n v s

/-- A host read at the port: a free value while `reset` is asserted (R200, U4). It changes nothing but the reply and the count of
free values (R44). -/
def portRead (n : BitVec 8) (s : State) : State :=
  { s with
    reply := if s.resetIn then .value (Config.unspecifiedRead s.free n) else readRegister n s
    free := s.free + 1 }

/-- Whether a reply to a read of `STATUS` shows `DONE` = 1 (R17, R78). -/
def replyShowsDone (a : HostReply) : Bool :=
  match a with
  | .nothing => false
  | .value v => v.getLsbD 1
  | .noValue => false

/-- The script line `START` (R78). -/
def scriptStart : HostOp := .write regCTRL 1#32

/-- The script line `WRFB b0 b1 …`, from byte `a` on (R78). -/
def scriptWrfb : Nat → List Byte → List HostOp
  | _, [] => []
  | a, b :: bs => .write (BitVec.ofNat 8 a) (b.setWidth 32) :: scriptWrfb (a + 1) bs

/-- The script line `WRLEN n` (R78). -/
def scriptWrlen (n : Nat) : HostOp := .write regLEN (BitVec.ofNat 32 n)

/-- The script line `WRFMT f` (R78). -/
def scriptWrfmt (f : Nat) : HostOp := .write regFMT (BitVec.ofNat 32 f)

/-- The script line `RESET` (R78): assert and release. -/
def scriptReset : List HostOp := [.reset true, .reset false]

/-- The pseudo-instruction `LOAD` (R78). -/
def scriptLoad (bs : List Byte) : List HostOp := scriptWrfb 0 bs ++ [scriptWrlen bs.length]

/-- The pseudo-instruction `DEC f` (R78). -/
def scriptDec (f : Nat) : List HostOp := [scriptWrfmt f, scriptStart, .wait]

end Sys2Proof.Machine
end

