-- ==== Sys2Proof/Machine/Sequencer.lean ====
section
/-! DEFINITION. The sequencer's step (43_frame_decoder.md R142), the host's step, and which of them comes next. -/

namespace Sys2Proof.Machine

/-- The sequencer has a step: busy, and not held in reset (R142, R200). -/
def State.sequencerEnabled (s : State) : Bool := s.busy && !s.resetIn

/-- The word the sequencer fetches: `LROM[SEQ]`, none where that address does not exist (R24, R75). -/
def State.fetch (s : State) : Option Byte := s.lrom[s.seq.toNat]?

/-- The sequencer's turn (R142): fetch, decode, execute; without an enabled step nothing changes (log entry 10). -/
def sequencerTurn (s : State) : Host.Outcome State Fault Refusal :=
  if s.sequencerEnabled then
    match s.fetch with
    | none => .fault .fetchOutsideRom
    | some w =>
      match decodeUop w with
      | .instr i => exec i s
      | .reserved _ => .refused (.reservedWord w)
  else .next s

/-- `START` at the command level (R3, R211): the command word is `FMT` (R70); ignored while `reset` is asserted (R200). -/
def commandTurn (s : State) : Host.Outcome State Fault Refusal :=
  if s.resetIn then .next s else exec (decodeCommand s.fmt) s

/-- One poll of `WAIT` (R78): a read of `STATUS`; when it shows `DONE` the line is over, else it stays and the sequencer takes its
turn (log entry 18). -/
def waitTurn (rest : List HostOp) (s : State) : Host.Outcome State Fault Refusal :=
  if replyShowsDone (portRead regSTATUS s).reply then .next { portRead regSTATUS s with host := rest }
  else sequencerTurn (portRead regSTATUS s)

/-- One step of the instance: the oldest pending host action, or the sequencer's turn when there is none or the host pauses
(R10, R50, log entry 9). -/
def turn (s : State) : Host.Outcome State Fault Refusal :=
  match s.host with
  | [] => sequencerTurn s
  | .pause :: rest => sequencerTurn { s with host := rest }
  | .write n v :: rest => .next (portWrite n v { s with host := rest })
  | .read n :: rest => .next (portRead n { s with host := rest })
  | .command :: rest => commandTurn { s with host := rest }
  | .wait :: rest => waitTurn rest s
  | .reset true :: rest => .next (assertReset { s with host := rest })
  | .reset false :: rest => .next (releaseReset { s with host := rest })

/-- The state in which the sequencer's next fetch gives `w`: `LROM[0]` holds it, `SEQ` is 0, the block is busy and the host
pauses. -/
def placeUop (w : Byte) (s : State) : State :=
  { s with lrom := w :: s.lrom.tail, seq := 0#7, busy := true, resetIn := false, host := .pause :: s.host }

/-- The state in which the next step is `START` of command word `w` at the command level: `FMT` holds it and the block is idle. -/
def placeCommand (w : Byte) (s : State) : State :=
  { s with fmt := w, busy := false, resetIn := false, host := .command :: s.host }

/-- The word where the next step runs it, in the code space in which `decodeAnyLevel` reads it (log entries 13, 14). -/
def placeWord (w : Byte) (s : State) : State :=
  match decodeUop w with
  | .instr _ => placeUop w s
  | .reserved _ => placeCommand w s

end Sys2Proof.Machine
end

