-- ==== Sys2Proof/Safety.lean ====
section
/-! DEFINITION. What the host can observe of a decode (R176), the values results denote (R7), the invariant of a run, and what no
instruction writes. -/

namespace Sys2Proof.Machine

/-- Two states show the host the same decode (60_exceptions.md R176: `ERR`, `WARN`, `PRESENT`, `UNIT` and the present results; here
all of `STATUS`). -/
def SameObservation (s t : State) : Prop :=
  s.statusWord = t.statusWord ∧ s.unit = t.unit ∧ s.present = t.present ∧ ∀ n : Fin 39, s.result? n = t.result? n

/-- The rational number a present result denotes, `int(R[n]) / UNIT` (R7, R149); none where the result is absent. -/
def State.value? (s : State) (n : Fin 39) : Option ℚ :=
  (s.result? n).map fun w => (w.toInt : ℚ) / (s.unit.toNat : ℚ)

/-- What no instruction writes: the inputs `FB`, `LEN`, `FMT` (R18, R19, R25: the engine never writes them), the configuration
(R28), the `reset` line, and the host's side of the interface. -/
structure InputsKept (s t : State) : Prop where
  bytes : ∀ a : Nat, Memory.read t.fb a = Memory.read s.fb a
  stored : ∀ a : Nat, Memory.stored t.fb a = Memory.stored s.fb a
  len : t.len = s.len
  fmt : t.fmt = s.fmt
  resetIn : t.resetIn = s.resetIn
  lrom : t.lrom = s.lrom
  order : t.order = s.order
  host : t.host = s.host
  reply : t.reply = s.reply
  free : t.free = s.free

/-- The status bits, the unit and the presence bits are as before. -/
structure StatusKept (s t : State) : Prop where
  busy : t.busy = s.busy
  done : t.done = s.done
  err : t.err = s.err
  warn : t.warn = s.warn
  unit : t.unit = s.unit
  present : t.present = s.present

/-- Where `SEQ` and `CUR` can stand together in the program of layout `f` (R15, R16, R112 to R117): `CUR` is what the reads before
`SEQ` have advanced it to. -/
def programPoint (f : Byte) (seq cur : Nat) : Prop :=
  (f = 22#8 ∧ seq ≤ 0x14 ∧ cur = 2 * min seq 19)
    ∨ (f = 21#8 ∧ 0x15 ≤ seq ∧ seq ≤ 0x22 ∧ cur = 3 * min (seq - 0x15) 12)
    ∨ (f = 10#8 ∧ 0x23 ≤ seq ∧ seq ≤ 0x44 ∧ cur = 3 * (seq - 0x23))

/-- The invariant that every step keeps. -/
structure Inv (s : State) : Prop where
  /-- The frame buffer is in canonical form (R25). -/
  memory : Memory.wf s.fb = true
  /-- `LROM` holds its constant contents (R24, R113). -/
  rom : s.lrom = lromImage s.order
  /-- `BUSY` and `DONE` are never both 1 (R17). -/
  busyNotDone : s.busy = true → s.done = false
  /-- Before `DONE` there is no result and neither flag (R141, R147, R172). -/
  nothingYet : s.done = false → s.err = false ∧ s.warn = false ∧ s.present = 0#39 ∧ s.unit = 0#10
  /-- An error leaves no result (R17, R172). -/
  errOutcome : s.err = true → s.done = true ∧ s.warn = false ∧ s.present = 0#39 ∧ s.unit = 0#10
  /-- A no-op leaves no result (R17, R174). -/
  warnOutcome : s.warn = true → s.done = true ∧ s.err = false ∧ s.present = 0#39 ∧ s.unit = 0#10
  /-- A decode with data has the mask and the unit of a layout (R17, R147). -/
  dataOutcome : s.outcomeData = true →
    ∃ f : Byte, recognised f = true ∧ s.present = presenceMask f ∧ s.unit = unitOf f
  /-- While busy the sequencer is inside the program of `FMT` (R16, R114, R141). -/
  inProgram : s.busy = true → programPoint s.fmt s.seq.toNat s.cur.toNat
  /-- `CUR` is at most 99 (R15). -/
  curBound : s.cur.toNat ≤ 99
  /-- `SEQ` is at most 0x44 (R16). -/
  seqBound : s.seq.toNat ≤ 0x44
  /-- While `reset` is asserted the state of R29 stands (R200). -/
  heldInReset : s.resetIn = true → s.statusWord = 0#4 ∧ s.present = 0#39 ∧ s.unit = 0#10 ∧ s.len = 0#7 ∧ s.fmt = 0#8
    ∧ s.cur = 0#8 ∧ s.seq = 0#7

/-- The host is idle: nothing pending, and `reset` released. -/
def State.undisturbed (s : State) : Prop := s.host = [] ∧ s.resetIn = false

/-- `k` steps of the machine (R142, R143). -/
abbrev run (k : Nat) (s : State) : Host.Outcome State Fault Refusal := Host.Core.run Sys2Proof.core k s

/-! ## The rules' own words for operands and results, written without the model's operations, for statements -/

/-- The word of register `R[n]` (R11), by number. -/
def State.word (s : State) (n : Nat) : Word := if h : n < 39 then s.r[n] else 0#32

/-- `q`, the integer of register `R[n]` (R7: `int(R[n])`). -/
def State.q (s : State) (n : Nat) : Int := (s.word n).toInt

/-- Nibble `i` of the frame (R8): the high nibble of byte `i >> 1` for even `i`, its low nibble for odd `i`. -/
def nibble (m : Memory) (i : Nat) : Nat :=
  if i % 2 = 0 then (Memory.read m (i / 2)).toNat / 16 else (Memory.read m (i / 2)).toNat % 16

/-- The 12-bit field at nibbles i, i + 1, i + 2, the first the most significant (R40). -/
def nibbleField (m : Memory) (i : Nat) : Nat := 256 * nibble m i + 16 * nibble m (i + 1) + nibble m (i + 2)

/-- The integer a 12-bit pattern denotes (R60). -/
def signed12 (u : Nat) : Int := if u < 2048 then (u : Int) else (u : Int) - 4096

/-- Packed field `j` of a frame (R61): the field at nibble 3·j, as an integer. -/
def wireField (m : Memory) (j : Nat) : Int := signed12 (nibbleField m (3 * j))

/-- Byte `a` of the frame as an integer (R62). -/
def wireByte (m : Memory) (a : Nat) : Int := ((Memory.read m a).toNat : Int)

/-- The A-weighting table of R130, in tenths. -/
def offsetsA : List Int := [-394, -262, -161, -86, -32, 0, 12, 10, -11]

/-- The C-weighting table of R131, in tenths. -/
def offsetsC : List Int := [-30, -8, -2, 0, 0, 0, 2, 3, -30]

end Sys2Proof.Machine
end

