-- ==== Sys2Proof/Certificates/Slice0/Obligations.lean ====
section
/-! DEFINITION. The statements for the provers. Each docstring names the rules of spec/ it formalises, or says that it is the model's
own choice and names the log entry. Where a statement speaks of `host`, the list of pending host actions is the model's own (log
entry 9): it says when the host's accesses of R26 and R200 happen. -/

open Sys2Proof Sys2Proof.Machine

/-! ## Encodings -/

/-- Decode and encode agree for every well-formed instruction of both code spaces, with every operand (R70, R71, R73, R74). -/
def Obligations.DecodeOfEncodeIsTheInstruction : Prop :=
  ∀ i : Instr, i.wellFormed = true → decode i.level (encode i) = .instr i

/-- Every word that decodes is the encoding of the well-formed instruction it decodes to, in its own code space. -/
def Obligations.EncodeOfDecodeIsTheWord : Prop :=
  ∀ (l : Level) (w : Byte) (i : Instr), decode l w = .instr i →
    i.wellFormed = true ∧ i.level = l ∧ encode i = w

/-- The command opcode map (R71). -/
def Obligations.CommandOpcodeMap : Prop :=
  decode .command 22#8 = .instr .dec22 ∧ decode .command 21#8 = .instr .dec21 ∧ decode .command 10#8 = .instr .dec10
    ∧ ∀ f : Byte, f ≠ 22#8 → f ≠ 21#8 → f ≠ 10#8 → decode .command f = .instr (.decnop f)

/-- The micro-operation opcode map (R74), by match and mask. -/
def Obligations.MicroOperationOpcodeMap : Prop :=
  ∀ w : Byte,
    (decode .micro w = .instr .rds ↔ w &&& 0xFF#8 = 0x00#8)
    ∧ (∀ d : BitVec 6, decode .micro w = .instr (.rdb d) ↔
        w &&& 0xC0#8 = 0x40#8 ∧ d = w.extractLsb' 0 6 ∧ d.toNat ≤ 38)
    ∧ (∀ d : BitVec 6, decode .micro w = .instr (.rd12 d) ↔
        w &&& 0xC0#8 = 0x80#8 ∧ d = w.extractLsb' 0 6 ∧ d.toNat ≤ 38)
    ∧ (decode .micro w = .instr .wgt ↔ w &&& 0xFF#8 = 0xC0#8)
    ∧ (decode .micro w = .instr .endOp ↔ w &&& 0xFF#8 = 0xC1#8)

/-- Reserved micro-operation words (R75): which they are, that the decoder calls them reserved and the machine refuses them, that
none occurs in `LROM`, whose last address is 0x44, and that a run never fetches one. -/
def Obligations.ReservedWordsAreRefusedAndNeverFetched : Prop :=
  (∀ w : Byte, (∃ why, decode .micro w = .reserved why) ↔
      (0x01 ≤ w.toNat ∧ w.toNat ≤ 0x3F) ∨ (0x67 ≤ w.toNat ∧ w.toNat ≤ 0x7F)
        ∨ (0xA7 ≤ w.toNat ∧ w.toNat ≤ 0xBF) ∨ 0xC2 ≤ w.toNat)
  ∧ (∀ (o : CurveOrder) (w : Byte), w ∈ lromImage o → ∃ i, decode .micro w = .instr i)
  ∧ (∀ o : CurveOrder, (lromImage o).length = 0x44 + 1)
  ∧ (∀ (s : State) (w : Byte) (why : Reserved), s.undisturbed → s.busy = true → s.lrom[s.seq.toNat]? = some w →
      decode .micro w = .reserved why → step s = .refused (.reservedWord w))
  ∧ (∀ (s : State) (d : BitVec 6), 39 ≤ d.toNat →
      exec (.rdb d) s = .refused (.reservedWord (encode (.rdb d)))
        ∧ exec (.rd12 d) s = .refused (.reservedWord (encode (.rd12 d))))
  ∧ (∀ s : State, Inv s → s.busy = true →
      ∃ w i, s.lrom[s.seq.toNat]? = some w ∧ decode .micro w = .instr i)

/-- A fetch from an `LROM` address that does not exist stops with the model's own fault. The model's choice of a fault among the
treatments of U5 (log entry 15). -/
def Obligations.FetchOutsideRomFaults : Prop :=
  ∀ s : State, s.undisturbed → s.busy = true → s.lrom[s.seq.toNat]? = none → step s = .fault .fetchOutsideRom

/-- Words written out from R71 and R74 decode to the instructions they stand for. A bare word is read as a micro-operation where it
is one (the model's choice, log entry 13). -/
def Obligations.SampleWordsDecode : Prop :=
  decodeTableWord 8 0x16 = some .dec22 ∧ decodeTableWord 8 0x15 = some .dec21 ∧ decodeTableWord 8 0x0A = some .dec10
    ∧ decodeTableWord 8 0x01 = some (.decnop 0x01#8) ∧ decodeTableWord 8 0x00 = some .rds
    ∧ decodeTableWord 8 0x5A = some (.rdb 26#6) ∧ decodeTableWord 8 0x9A = some (.rd12 26#6)
    ∧ decodeTableWord 8 0xC0 = some .wgt ∧ decodeTableWord 8 0xC1 = some .endOp

/-! ## The field readers -/

/-- The packed-nibble multiplexer reads three consecutive nibbles, the first the most significant, at every nibble index, even and
odd (R40, R95). -/
def Obligations.ExtractReadsThreeNibbles : Prop :=
  ∀ (m : Memory) (i : Nat),
    (extract12 m i).toNat = nibbleField m i
    ∧ (i % 2 = 0 → (extract12 m i).toNat =
        (Memory.read m (i / 2)).toNat * 16 + (Memory.read m (i / 2 + 1)).toNat / 16)
    ∧ (i % 2 = 1 → (extract12 m i).toNat =
        (Memory.read m (i / 2)).toNat % 16 * 256 + (Memory.read m (i / 2 + 1)).toNat)

/-- Sign extension (R97): as a word and as an integer. -/
def Obligations.SignExtensionOfTwelveBits : Prop :=
  ∀ u : BitVec 12,
    (u &&& 0x800#12 ≠ 0#12 → sext12 u = u.setWidth 32 ||| 0xFFFFF000#32 ∧ (sext12 u).toInt = (u.toNat : Int) - 4096)
    ∧ (u &&& 0x800#12 = 0#12 → sext12 u = u.setWidth 32 ∧ (sext12 u).toInt = (u.toNat : Int))

/-- The bound of a 12-bit read (R94): `RD12` is allowed exactly when `(i >> 1) + 2 ≤ LEN`, which is `ceil((4·i + 12) / 8) ≤ LEN`, for
even and odd `i`; otherwise it raises `BufferTooShort`. -/
def Obligations.PackedReadBound : Prop :=
  ∀ (s : State) (d : BitVec 6), d.toNat ≤ 38 →
    (s.cur.toNat / 2 + 2 ≤ s.len.toNat ↔ (4 * s.cur.toNat + 12 + 7) / 8 ≤ s.len.toNat)
    ∧ (exec (.rd12 d) s = .next (bufferTooShort s) ↔ s.len.toNat < s.cur.toNat / 2 + 2)

/-- `RDS` (R91): its word, its only place in `LROM`, its effect with its frame, its exception. -/
def Obligations.RdsReadsTheScaleByte : Prop :=
  encode .rds = 0x00#8
  ∧ (∀ (o : CurveOrder) (a : Nat), (lromImage o)[a]? = some 0x00#8 ↔ a = 0)
  ∧ (∀ s : State, s.cur.toNat / 2 < s.len.toNat →
      ∃ t, exec .rds s = .next t
        ∧ t.scale = Memory.read s.fb (s.cur.toNat / 2)
        ∧ t.cur.toNat = s.cur.toNat + 2 ∧ t.seq = s.seq + 1#7
        ∧ t.r = s.r ∧ StatusKept s t ∧ InputsKept s t)
  ∧ (∀ s : State, s.len.toNat ≤ s.cur.toNat / 2 → exec .rds s = .next (bufferTooShort s))
  ∧ (∀ (s : State) (d : BitVec 6) (n : Nat), d.toNat = n → n ≤ 38 → s.scale = 0#8 → s.cur.toNat / 2 < s.len.toNat →
      ∃ t, exec (.rdb d) s = .next t ∧ t.q n = 0)

/-- `RDB d` (R93): its word, the exact product, the value it denotes, the range, the frame, the exception. -/
def Obligations.RdbScalesAByte : Prop :=
  (∀ d : BitVec 6, encode (.rdb d) = 0x40#8 ||| d.setWidth 8)
  ∧ ∀ (s : State) (d : BitVec 6) (n : Nat), d.toNat = n → n ≤ 38 →
    (s.cur.toNat / 2 < s.len.toNat →
      ∃ t, exec (.rdb d) s = .next t
        ∧ t.q n = 2 * ((s.scale.toNat : Int) * wireByte s.fb (s.cur.toNat / 2))
        ∧ (t.q n : ℚ) / 510 = (s.scale.toNat : ℚ) / 255 * ((Memory.read s.fb (s.cur.toNat / 2)).toNat : ℚ)
        ∧ 0 ≤ t.q n ∧ t.q n ≤ 130050
        ∧ (∀ k : Nat, k ≤ 38 → k ≠ n → t.word k = s.word k)
        ∧ t.cur.toNat = s.cur.toNat + 2 ∧ t.seq = s.seq + 1#7
        ∧ t.scale = s.scale ∧ StatusKept s t ∧ InputsKept s t)
    ∧ (s.len.toNat ≤ s.cur.toNat / 2 → exec (.rdb d) s = .next (bufferTooShort s))

/-- `RD12 d` (R96): its word, the sign-extended field at the cursor, the frame, the exception. -/
def Obligations.Rd12ReadsASignedField : Prop :=
  (∀ d : BitVec 6, encode (.rd12 d) = 0x80#8 ||| d.setWidth 8)
  ∧ ∀ (s : State) (d : BitVec 6) (n : Nat), d.toNat = n → n ≤ 38 →
    (s.cur.toNat / 2 + 2 ≤ s.len.toNat →
      ∃ t, exec (.rd12 d) s = .next t
        ∧ t.q n = signed12 (nibbleField s.fb s.cur.toNat)
        ∧ -2048 ≤ t.q n ∧ t.q n ≤ 2047
        ∧ (∀ k : Nat, k ≤ 38 → k ≠ n → t.word k = s.word k)
        ∧ t.cur.toNat = s.cur.toNat + 3 ∧ t.seq = s.seq + 1#7
        ∧ t.scale = s.scale ∧ StatusKept s t ∧ InputsKept s t)
    ∧ (s.len.toNat < s.cur.toNat / 2 + 2 → exec (.rd12 d) s = .next (bufferTooShort s))

/-- The round trips of R100: (a) a 12-bit pattern stored at the cursor is read back as its integer, at every cursor; (b) a byte read
gives (s / 255) · r exactly, as 2·s·r over 510. -/
def Obligations.FieldRoundTrips : Prop :=
  (∀ (s : State) (d : BitVec 6) (k : Nat) (n : Int), d.toNat = k → k ≤ 38 → -2048 ≤ n → n ≤ 2047 →
    s.cur.toNat / 2 + 2 ≤ s.len.toNat →
    (nibble s.fb s.cur.toNat : Int) = n % 4096 / 256 →
    (nibble s.fb (s.cur.toNat + 1) : Int) = n % 4096 / 16 % 16 →
    (nibble s.fb (s.cur.toNat + 2) : Int) = n % 4096 % 16 →
    ∃ t, exec (.rd12 d) s = .next t ∧ t.q k = n)
  ∧ (∀ (s : State) (d : BitVec 6) (k : Nat), d.toNat = k → k ≤ 38 → s.cur.toNat / 2 < s.len.toNat →
    ∃ t, exec (.rdb d) s = .next t
      ∧ t.q k = 2 * (s.scale.toNat : Int) * wireByte s.fb (s.cur.toNat / 2)
      ∧ (t.q k : ℚ) / 510 = (s.scale.toNat : ℚ) / 255 * ((Memory.read s.fb (s.cur.toNat / 2)).toNat : ℚ))

/-- No field read touches a byte at or above `LEN` (R99): two frame buffers that agree below `LEN` give the same effect, for each of
the three readers. -/
def Obligations.NoReadAtOrAboveLen : Prop :=
  ∀ (s : State) (m : Memory) (i : Instr), (i = .rds ∨ (∃ d, i = .rdb d) ∨ (∃ d, i = .rd12 d)) → i.wellFormed = true →
    (∀ a : Nat, a < s.len.toNat → Memory.read m a = Memory.read s.fb a) →
    ∃ t, exec i s = .next t ∧ exec i { s with fb := m } = .next { t with fb := m }

/-- Taking `BufferTooShort` (R172): a reader whose bytes are missing sets `ERR` and `DONE`, clears `BUSY` and changes nothing else;
in a run `PRESENT`, `UNIT` and `WARN` are 0 then. -/
def Obligations.BufferTooShortEntry : Prop :=
  ∀ (s : State) (i : Instr),
    ((i = .rds ∧ s.len.toNat ≤ s.cur.toNat / 2)
      ∨ (∃ d : BitVec 6, d.toNat ≤ 38 ∧ i = .rdb d ∧ s.len.toNat ≤ s.cur.toNat / 2)
      ∨ (∃ d : BitVec 6, d.toNat ≤ 38 ∧ i = .rd12 d ∧ s.len.toNat < s.cur.toNat / 2 + 2)) →
    ∃ t, exec i s = .next t
      ∧ t.err = true ∧ t.done = true ∧ t.busy = false
      ∧ t.warn = s.warn ∧ t.unit = s.unit ∧ t.present = s.present
      ∧ t.cur = s.cur ∧ t.seq = s.seq ∧ t.scale = s.scale ∧ t.r = s.r ∧ InputsKept s t
      ∧ (Inv s → s.busy = true → t.present = 0#39 ∧ t.unit = 0#10 ∧ t.warn = false)

/-! ## The weighter and END -/

/-- `WGT` (R132) with the tables of R130 and R131: its word, the eighteen additions, the frame. -/
def Obligations.WgtAddsTheOffsets : Prop :=
  encode .wgt = 0xC0#8
  ∧ ∀ s : State, ∃ t, exec .wgt s = .next t
    ∧ (∀ k : Nat, k ≤ 8 →
        t.word (4 + k) = s.word (30 + k)
          + BitVec.ofInt 32 ((if s.fmt = 22#8 then 51 else 1) * offsetsA.getD k 0)
        ∧ t.word (17 + k) = s.word (30 + k)
          + BitVec.ofInt 32 ((if s.fmt = 22#8 then 51 else 1) * offsetsC.getD k 0))
    ∧ (∀ n : Nat, n ≤ 38 → ¬(4 ≤ n ∧ n ≤ 12) → ¬(17 ≤ n ∧ n ≤ 25) → t.word n = s.word n)
    ∧ t.cur = s.cur ∧ t.seq = s.seq + 1#7 ∧ t.scale = s.scale ∧ StatusKept s t ∧ InputsKept s t

/-- The weighting property (R136) for every Z spectrum within the ranges of R135, as an equation of integers: no addition wraps.
The results lie within the ranges that R135 gives. -/
def Obligations.WeightingPropertyOverIntegers : Prop :=
  ∀ s : State,
    (∀ k : Nat, k ≤ 8 →
      if s.fmt = 22#8 then 0 ≤ s.q (30 + k) ∧ s.q (30 + k) ≤ 130050
      else -2048 ≤ s.q (30 + k) ∧ s.q (30 + k) ≤ 2047) →
    ∃ t, exec .wgt s = .next t
      ∧ ∀ k : Nat, k ≤ 8 →
        t.q (4 + k) = s.q (30 + k) + (if s.fmt = 22#8 then 51 else 1) * offsetsA.getD k 0
        ∧ t.q (17 + k) = s.q (30 + k) + (if s.fmt = 22#8 then 51 else 1) * offsetsC.getD k 0
        ∧ (if s.fmt = 22#8 then
            -20094 ≤ t.q (4 + k) ∧ t.q (4 + k) ≤ 130662 ∧ -1530 ≤ t.q (17 + k) ∧ t.q (17 + k) ≤ 130203
          else
            -2442 ≤ t.q (4 + k) ∧ t.q (4 + k) ≤ 2059 ∧ -2078 ≤ t.q (17 + k) ∧ t.q (17 + k) ≤ 2050)

/-- `END` (R147): its word and its only places in `LROM`, the masks and units, the status, the frame. -/
def Obligations.EndPublishesTheResults : Prop :=
  encode .endOp = 0xC1#8
  ∧ (∀ (o : CurveOrder) (a : Nat), (lromImage o)[a]? = some 0xC1#8 ↔ a = 0x14 ∨ a = 0x22 ∨ a = 0x44)
  ∧ ∀ s : State, ∃ t, exec .endOp s = .next t
    ∧ (s.fmt = 22#8 → t.present = 0x7FDFFEFFF7#39) ∧ (s.fmt = 21#8 → t.present = 0x7FDFFE1FF0#39)
    ∧ (s.fmt = 10#8 → t.present = 0x7FF3FF9FFC#39)
    ∧ t.unit = (if s.fmt = 22#8 then 510#10 else 10#10)
    ∧ t.busy = false ∧ t.done = true ∧ t.err = s.err ∧ t.warn = s.warn
    ∧ t.seq = s.seq ∧ t.cur = s.cur ∧ t.scale = s.scale ∧ t.r = s.r ∧ InputsKept s t
    ∧ (Inv s → s.busy = true → s.present = 0#39 ∧ t.err = false ∧ t.warn = false)

/-! ## The layout ROM -/

/-- The 69 words of `LROM` (R113), for the default curve order. -/
def Obligations.RomContents : Prop :=
  lromImage .zac =
    [0x00#8, 0x40#8, 0x41#8, 0x42#8, 0x4D#8, 0x4E#8, 0x4F#8, 0x5A#8, 0x5B#8, 0x5C#8, 0x5E#8, 0x5F#8, 0x60#8, 0x61#8, 0x62#8,
      0x63#8, 0x64#8, 0x65#8, 0x66#8, 0xC0#8, 0xC1#8]
    ++ [0x9A#8, 0x9B#8, 0x9C#8, 0x9E#8, 0x9F#8, 0xA0#8, 0xA1#8, 0xA2#8, 0xA3#8, 0xA4#8, 0xA5#8, 0xA6#8, 0xC0#8, 0xC1#8]
    ++ [0x9E#8, 0x9F#8, 0xA0#8, 0xA1#8, 0xA2#8, 0xA3#8, 0xA4#8, 0xA5#8, 0xA6#8, 0x9D#8, 0x9C#8]
    ++ [0x84#8, 0x85#8, 0x86#8, 0x87#8, 0x88#8, 0x89#8, 0x8A#8, 0x8B#8, 0x8C#8, 0x83#8, 0x82#8]
    ++ [0x91#8, 0x92#8, 0x93#8, 0x94#8, 0x95#8, 0x96#8, 0x97#8, 0x98#8, 0x99#8, 0x90#8, 0x8F#8, 0xC1#8]

/-- The three blocks of the format-10 program (R117) for every curve order: block m reads the nine bands of its curve, then its peak,
then its average; there is no `WGT` in that program. -/
def Obligations.PackedPeakProgramForEveryOrder : Prop :=
  ∀ (o : CurveOrder) (c : Curve) (m : Nat), (orderCurves o)[m]? = some c →
    (∀ k : Nat, k ≤ 8 → (lromImage o)[0x23 + 11 * m + k]? = some (0x80#8 ||| BitVec.ofNat 8 (13 * curveNumber c + 4 + k)))
    ∧ (lromImage o)[0x23 + 11 * m + 9]? = some (0x80#8 ||| BitVec.ofNat 8 (13 * curveNumber c + 3))
    ∧ (lromImage o)[0x23 + 11 * m + 10]? = some (0x80#8 ||| BitVec.ofNat 8 (13 * curveNumber c + 2))
    ∧ (lromImage o)[0x44]? = some 0xC1#8
    ∧ ∀ a : Nat, 0x23 ≤ a → (lromImage o)[a]? ≠ some 0xC0#8

/-- Nothing writes the ROM or the curve order (R24, R28). -/
def Obligations.RomNeverChanges : Prop :=
  ∀ s t : State, step s = .next t → t.lrom = s.lrom ∧ t.order = s.order

/-! ## The commands -/

/-- `DEC22` (R150): outcome error below 19 bytes, else outcome data with every result, the inputs unchanged; which micro-operation
raises the error when the sequencer runs the program. The state no host can see is `FinishedCommandsLeaveTheHiddenState`. -/
def Obligations.Dec22DecodesAScaledByteFrame : Prop :=
  encode .dec22 = 22#8
  ∧ (∀ s : State, s.busy = false → s.len.toNat < 19 →
    ∃ t, exec .dec22 s = .next t
      ∧ t.err = true ∧ t.done = true ∧ t.warn = false ∧ t.busy = false ∧ t.present = 0#39 ∧ t.unit = 0#10
      ∧ InputsKept s t)
  ∧ (∀ s : State, s.busy = false → 19 ≤ s.len.toNat →
    ∃ t, exec .dec22 s = .next t
      ∧ t.err = false ∧ t.done = true ∧ t.warn = false ∧ t.busy = false ∧ t.unit = 510#10 ∧ t.present = 0x7FDFFEFFF7#39
      ∧ (∀ j : Nat, j ≤ 2 →
          t.q j = 2 * wireByte s.fb 0 * wireByte s.fb (1 + j)
          ∧ t.q (13 + j) = 2 * wireByte s.fb 0 * wireByte s.fb (4 + j)
          ∧ t.q (26 + j) = 2 * wireByte s.fb 0 * wireByte s.fb (7 + j))
      ∧ (∀ k : Nat, k ≤ 8 →
          t.q (30 + k) = 2 * wireByte s.fb 0 * wireByte s.fb (10 + k)
          ∧ t.q (4 + k) = 2 * wireByte s.fb 0 * wireByte s.fb (10 + k) + 51 * offsetsA.getD k 0
          ∧ t.q (17 + k) = 2 * wireByte s.fb 0 * wireByte s.fb (10 + k) + 51 * offsetsC.getD k 0)
      ∧ InputsKept s t)
  ∧ (∀ s : State, Inv s → s.undisturbed → s.busy = true → s.fmt = 22#8 →
    (step s = .next (bufferTooShort s) ↔ s.seq.toNat ≤ 18 ∧ s.len.toNat ≤ s.seq.toNat))

/-- `DEC21` (R151): outcome error below 18 bytes, else outcome data with every result, the inputs unchanged; which micro-operation
raises the error when the sequencer runs the program. The state no host can see is `FinishedCommandsLeaveTheHiddenState`. -/
def Obligations.Dec21DecodesAPackedSummaryFrame : Prop :=
  encode .dec21 = 21#8
  ∧ (∀ s : State, s.busy = false → s.len.toNat < 18 →
    ∃ t, exec .dec21 s = .next t
      ∧ t.err = true ∧ t.done = true ∧ t.warn = false ∧ t.busy = false ∧ t.present = 0#39 ∧ t.unit = 0#10
      ∧ InputsKept s t)
  ∧ (∀ s : State, s.busy = false → 18 ≤ s.len.toNat →
    ∃ t, exec .dec21 s = .next t
      ∧ t.err = false ∧ t.done = true ∧ t.warn = false ∧ t.busy = false ∧ t.unit = 10#10 ∧ t.present = 0x7FDFFE1FF0#39
      ∧ (∀ j : Nat, j ≤ 2 → t.q (26 + j) = wireField s.fb j)
      ∧ (∀ k : Nat, k ≤ 8 →
          t.q (30 + k) = wireField s.fb (3 + k)
          ∧ t.q (4 + k) = wireField s.fb (3 + k) + offsetsA.getD k 0
          ∧ t.q (17 + k) = wireField s.fb (3 + k) + offsetsC.getD k 0)
      ∧ InputsKept s t)
  ∧ (∀ s : State, Inv s → s.undisturbed → s.busy = true → s.fmt = 21#8 →
    (step s = .next (bufferTooShort s) ↔
      s.seq.toNat ≤ 0x20 ∧ s.len.toNat < 3 * (s.seq.toNat - 0x15) / 2 + 2))

/-- `DEC10` (R152) for every curve order: outcome error below 50 bytes, else outcome data, every result read from the frame and none
derived, the inputs unchanged. The state no host can see is `FinishedCommandsLeaveTheHiddenState`. -/
def Obligations.Dec10DecodesAPackedPeakFrame : Prop :=
  encode .dec10 = 10#8
  ∧ (∀ s : State, s.busy = false → s.len.toNat < 50 →
    ∃ t, exec .dec10 s = .next t
      ∧ t.err = true ∧ t.done = true ∧ t.warn = false ∧ t.busy = false ∧ t.present = 0#39 ∧ t.unit = 0#10
      ∧ InputsKept s t)
  ∧ (∀ s : State, s.busy = false → 50 ≤ s.len.toNat →
    ∃ t, exec .dec10 s = .next t
      ∧ t.err = false ∧ t.done = true ∧ t.warn = false ∧ t.busy = false ∧ t.unit = 10#10 ∧ t.present = 0x7FF3FF9FFC#39
      ∧ (∀ (m : Nat) (c : Curve), (orderCurves s.order)[m]? = some c →
          (∀ k : Nat, k ≤ 8 → t.q (13 * curveNumber c + 4 + k) = wireField s.fb (11 * m + k))
          ∧ t.q (13 * curveNumber c + 3) = wireField s.fb (11 * m + 9)
          ∧ t.q (13 * curveNumber c + 2) = wireField s.fb (11 * m + 10))
      ∧ InputsKept s t)

/-- A command that ends in the error outcome keeps the result registers and `SCALE`. The model's choice for state that no host can
see (log entry 8): the sequencer of R142 would have left partial results in them. -/
def Obligations.FailedCommandsKeepTheHiddenRegisters : Prop :=
  ∀ (s : State) (i : Instr), s.busy = false →
    ((i = .dec22 ∧ s.len.toNat < 19) ∨ (i = .dec21 ∧ s.len.toNat < 18) ∨ (i = .dec10 ∧ s.len.toNat < 50)) →
    ∃ t, exec i s = .next t ∧ t.r = s.r ∧ t.scale = s.scale ∧ t.cur = 0#8

/-- The state no host can see after a command that ends with data: the absent registers keep their words, `SCALE` is the scale byte
after `DEC22` and unchanged after `DEC21` and `DEC10`, `CUR` and `SEQ` stand where the layout program ends. The model's choice, read
from the programs (log entry 8; R22, R114 to R117): R150 to R152 say of these registers only that they are absent. -/
def Obligations.FinishedCommandsLeaveTheHiddenState : Prop :=
  (∀ s : State, s.busy = false → 19 ≤ s.len.toNat →
    ∃ t, exec .dec22 s = .next t
      ∧ (∀ n : Nat, n = 3 ∨ n = 16 ∨ n = 29 → t.word n = s.word n)
      ∧ t.scale = Memory.read s.fb 0 ∧ t.cur = 38#8 ∧ t.seq = 0x14#7)
  ∧ (∀ s : State, s.busy = false → 18 ≤ s.len.toNat →
    ∃ t, exec .dec21 s = .next t
      ∧ (∀ n : Nat, n ≤ 3 ∨ (13 ≤ n ∧ n ≤ 16) ∨ n = 29 → t.word n = s.word n)
      ∧ t.scale = s.scale ∧ t.cur = 36#8 ∧ t.seq = 0x22#7)
  ∧ (∀ s : State, s.busy = false → 50 ≤ s.len.toNat →
    ∃ t, exec .dec10 s = .next t
      ∧ (∀ c : Curve, t.word (13 * curveNumber c) = s.word (13 * curveNumber c)
          ∧ t.word (13 * curveNumber c + 1) = s.word (13 * curveNumber c + 1))
      ∧ t.scale = s.scale ∧ t.cur = 99#8 ∧ t.seq = 0x44#7)

/-- `DECNOP` (R153): the warning outcome for every `LEN` and every `FB`, of which nothing is read, and what it leaves unchanged. -/
def Obligations.DecnopWarnsAndReadsNothing : Prop :=
  (∀ (s : State) (f : Byte), s.busy = false →
    ∃ t, exec (.decnop f) s = .next t
      ∧ t.warn = true ∧ t.done = true ∧ t.err = false ∧ t.busy = false ∧ t.present = 0#39 ∧ t.unit = 0#10
      ∧ t.r = s.r ∧ t.scale = s.scale ∧ t.seq = s.seq ∧ InputsKept s t
      ∧ ∀ (m : Memory) (l : BitVec 7),
          exec (.decnop f) { s with fb := m, len := l } = .next { t with fb := m, len := l })
  ∧ (∀ f : Byte, f ≠ 22#8 → f ≠ 21#8 → f ≠ 10#8 → encode (.decnop f) = f ∧ decode .command f = .instr (.decnop f))

/-- A command that meets a busy block does nothing (R20: writing 1 to `START` while `BUSY = 1` does nothing). -/
def Obligations.CommandsAreIgnoredWhileBusy : Prop :=
  ∀ (s : State) (i : Instr), i.level = .command → s.busy = true → exec i s = .next s

/-- What every result register denotes after a decode with data (R7, R149, R150 to R152): exactly the rational number that the source
gives, with no rounding anywhere, for each present register; nothing for each absent one. Every register of 0 … 38 falls under a
clause, in each format. -/
def Obligations.DenotedValuesAreExact : Prop :=
  (∀ s : State, s.busy = false → 19 ≤ s.len.toNat →
    ∃ t, exec .dec22 s = .next t
      ∧ (∀ (j : Nat) (n : Fin 39), j ≤ 2 →
          (n.val = j → t.value? n = some ((wireByte s.fb 0 : ℚ) / 255 * (wireByte s.fb (1 + j) : ℚ)))
          ∧ (n.val = 13 + j → t.value? n = some ((wireByte s.fb 0 : ℚ) / 255 * (wireByte s.fb (4 + j) : ℚ)))
          ∧ (n.val = 26 + j → t.value? n = some ((wireByte s.fb 0 : ℚ) / 255 * (wireByte s.fb (7 + j) : ℚ))))
      ∧ (∀ (k : Nat) (n : Fin 39), k ≤ 8 →
          (n.val = 30 + k → t.value? n = some ((wireByte s.fb 0 : ℚ) / 255 * (wireByte s.fb (10 + k) : ℚ)))
          ∧ (n.val = 4 + k → t.value? n =
              some ((wireByte s.fb 0 : ℚ) / 255 * (wireByte s.fb (10 + k) : ℚ) + (offsetsA.getD k 0 : ℚ) / 10))
          ∧ (n.val = 17 + k → t.value? n =
              some ((wireByte s.fb 0 : ℚ) / 255 * (wireByte s.fb (10 + k) : ℚ) + (offsetsC.getD k 0 : ℚ) / 10)))
      ∧ (∀ n : Fin 39, n.val = 3 ∨ n.val = 16 ∨ n.val = 29 → t.value? n = none))
  ∧ (∀ s : State, s.busy = false → 18 ≤ s.len.toNat →
    ∃ t, exec .dec21 s = .next t
      ∧ (∀ (j : Nat) (n : Fin 39), j ≤ 2 → n.val = 26 + j → t.value? n = some ((wireField s.fb j : ℚ) / 10))
      ∧ (∀ (k : Nat) (n : Fin 39), k ≤ 8 →
          (n.val = 30 + k → t.value? n = some ((wireField s.fb (3 + k) : ℚ) / 10))
          ∧ (n.val = 4 + k → t.value? n = some ((wireField s.fb (3 + k) : ℚ) / 10 + (offsetsA.getD k 0 : ℚ) / 10))
          ∧ (n.val = 17 + k → t.value? n = some ((wireField s.fb (3 + k) : ℚ) / 10 + (offsetsC.getD k 0 : ℚ) / 10)))
      ∧ (∀ n : Fin 39, n.val ≤ 3 ∨ (13 ≤ n.val ∧ n.val ≤ 16) ∨ n.val = 29 → t.value? n = none))
  ∧ (∀ s : State, s.busy = false → 50 ≤ s.len.toNat →
    ∃ t, exec .dec10 s = .next t
      ∧ (∀ (m : Nat) (c : Curve) (n : Fin 39), (orderCurves s.order)[m]? = some c →
          (∀ k : Nat, k ≤ 8 → n.val = 13 * curveNumber c + 4 + k →
            t.value? n = some ((wireField s.fb (11 * m + k) : ℚ) / 10))
          ∧ (n.val = 13 * curveNumber c + 3 → t.value? n = some ((wireField s.fb (11 * m + 9) : ℚ) / 10))
          ∧ (n.val = 13 * curveNumber c + 2 → t.value? n = some ((wireField s.fb (11 * m + 10) : ℚ) / 10)))
      ∧ (∀ (c : Curve) (n : Fin 39), n.val = 13 * curveNumber c ∨ n.val = 13 * curveNumber c + 1 → t.value? n = none))

/-- No instruction writes the inputs or the configuration (R18, R19, R25: the engine never writes `FB`, `LEN`, `FMT`). -/
def Obligations.NoInstructionWritesItsInputs : Prop :=
  ∀ (i : Instr) (s t : State), exec i s = .next t → InputsKept s t

/-! ## The step -/

/-- A step runs the decoded instruction (R142): with nothing pending or a pausing host, the word at `SEQ`; with `START` pending at the
command level, the command word `FMT`. Around `exec` the step only takes the host's action off the list. With the script line `WAIT`
pending (R78; its polling is the model's choice, log entry 18) the step first reads `STATUS`: where that shows `DONE` the line is over
and nothing runs, else the line stays and the word at `SEQ` runs in the same step. -/
def Obligations.StepRunsTheDecodedInstruction : Prop :=
  (∀ (s : State) (w : Byte) (i : Instr), s.undisturbed → s.busy = true → s.lrom[s.seq.toNat]? = some w →
    decode .micro w = .instr i → step s = exec i s)
  ∧ (∀ (s : State) (rest : List HostOp) (w : Byte) (i : Instr), s.host = .pause :: rest → s.resetIn = false → s.busy = true →
    s.lrom[s.seq.toNat]? = some w → decode .micro w = .instr i → step s = exec i { s with host := rest })
  ∧ (∀ (s : State) (rest : List HostOp) (i : Instr), s.host = .command :: rest → s.resetIn = false →
    decode .command s.fmt = .instr i → step s = exec i { s with host := rest })
  ∧ (∀ (s : State) (rest : List HostOp) (w : Byte) (i : Instr), s.host = .wait :: rest → s.resetIn = false → s.busy = true →
    s.done = false → s.lrom[s.seq.toNat]? = some w → decode .micro w = .instr i →
    step s = exec i { s with reply := .value (s.statusWord.setWidth 32), free := s.free + 1 })
  ∧ (∀ (s : State) (rest : List HostOp), s.host = .wait :: rest → s.resetIn = false → s.done = true →
    step s = .next { s with host := rest, reply := .value (s.statusWord.setWidth 32), free := s.free + 1 })

/-- While the sequencer has no step and the host does nothing, the state stays as it is. The model's choice: a step of an idle
machine is no change, not a stop (log entry 10; 60_exceptions.md R181 "all state is kept while idle"). -/
def Obligations.IdleStepKeepsTheState : Prop :=
  ∀ s : State, s.host = [] → (s.busy = false ∨ s.resetIn = true) → step s = .next s

/-- `START` (R141), written to `CTRL`: everything it writes in each of its three cases, and what it leaves unchanged. -/
def Obligations.StartBeginsOrWarns : Prop :=
  ∀ (s : State) (rest : List HostOp) (v : Word), s.host = .write 0x82#8 v :: rest → s.resetIn = false → v.getLsbD 0 = true →
    (s.busy = true → step s = .next { s with host := rest })
    ∧ (s.busy = false →
      ∃ t, step s = .next t ∧ t.host = rest
        ∧ t.err = false ∧ t.present = 0#39 ∧ t.unit = 0#10 ∧ t.cur = 0#8
        ∧ (s.fmt = 22#8 → t.seq = 0x00#7) ∧ (s.fmt = 21#8 → t.seq = 0x15#7) ∧ (s.fmt = 10#8 → t.seq = 0x23#7)
        ∧ (s.fmt = 22#8 ∨ s.fmt = 21#8 ∨ s.fmt = 10#8 → t.busy = true ∧ t.done = false ∧ t.warn = false)
        ∧ (s.fmt ≠ 22#8 → s.fmt ≠ 21#8 → s.fmt ≠ 10#8 →
            t.busy = false ∧ t.done = true ∧ t.warn = true ∧ t.seq = s.seq)
        ∧ t.r = s.r ∧ t.scale = s.scale ∧ InputsKept { s with host := rest } t)

/-- `CTRL` (R20): writing 0 to its bit, or 1 while busy, does nothing, whatever bits 31:1 are; otherwise only bit 0 matters; a read
returns 0. -/
def Obligations.CtrlHasOneBit : Prop :=
  (∀ (s : State) (rest : List HostOp) (v : Word), s.host = .write 0x82#8 v :: rest →
    (v.getLsbD 0 = false ∨ s.busy = true → step s = .next { s with host := rest })
    ∧ step s = step { s with host := .write 0x82#8 (v &&& 1#32) :: rest })
  ∧ (∀ (s : State) (rest : List HostOp), s.host = .read 0x82#8 :: rest → s.resetIn = false →
    ∃ t, step s = .next t ∧ t.reply = .value 0#32)

/-- The busy lock-out (R208): every host write is dropped while busy; reads go on, `FB`, `LEN`, `FMT` with their values, `UNIT` and
`PRESENT` as 0, result registers without a value. -/
def Obligations.BusyLockOut : Prop :=
  ∀ (s : State) (rest : List HostOp), s.busy = true →
    (∀ (n : BitVec 8) (v : Word), s.host = .write n v :: rest → step s = .next { s with host := rest })
    ∧ (∀ n : BitVec 8, Inv s → s.host = .read n :: rest →
      ∃ t, step s = .next t
        ∧ (n.toNat < 128 → t.reply = .value ((Memory.read s.fb n.toNat).setWidth 32))
        ∧ (n = 0x80#8 → t.reply = .value (s.len.setWidth 32))
        ∧ (n = 0x81#8 → t.reply = .value (s.fmt.setWidth 32))
        ∧ (n = 0x83#8 → t.reply = .value 1#32)
        ∧ (n = 0x84#8 ∨ n = 0x85#8 ∨ n = 0x86#8 → t.reply = .value 0#32)
        ∧ (0xC0 ≤ n.toNat → n.toNat ≤ 0xE6 → t.reply = .noValue))

/-- What a host read of each register number answers (the map of 10_state.md section 7), and that it changes nothing else. The
counter of free values is the model's own (log entries 11 and 16). -/
def Obligations.HostReadsEveryRegister : Prop :=
  ∀ (s : State) (rest : List HostOp) (n : BitVec 8), s.host = .read n :: rest → s.resetIn = false →
    ∃ t, step s = .next t
      ∧ t = { s with host := rest, reply := t.reply, free := t.free }
      ∧ (n.toNat < 128 → t.reply = .value ((Memory.read s.fb n.toNat).setWidth 32))
      ∧ (n = 0x80#8 → t.reply = .value (s.len.setWidth 32))
      ∧ (n = 0x81#8 → t.reply = .value (s.fmt.setWidth 32))
      ∧ (n = 0x82#8 → t.reply = .value 0#32)
      ∧ (n = 0x83#8 → ∃ w : Word, t.reply = .value w ∧ w.toNat = (if s.busy then 1 else 0) + (if s.done then 2 else 0)
          + (if s.err then 4 else 0) + (if s.warn then 8 else 0))
      ∧ (n = 0x84#8 → t.reply = .value (s.unit.setWidth 32))
      ∧ (n = 0x85#8 → ∃ w : Word, t.reply = .value w ∧ w.toNat = s.present.toNat % 2 ^ 32)
      ∧ (n = 0x86#8 → ∃ w : Word, t.reply = .value w ∧ w.toNat = s.present.toNat / 2 ^ 32)
      ∧ (∀ k : Nat, k ≤ 38 → n.toNat = 0xC0 + k →
          t.reply = if s.present.getLsbD k then .value (s.word k) else .noValue)
      ∧ ((0x87 ≤ n.toNat ∧ n.toNat ≤ 0xBF) ∨ 0xE7 ≤ n.toNat → ∃ w : Word, t.reply = .value w)

/-- What a host write of each register number does while idle (10_state.md section 7, R25, R18, R19), and that it changes nothing
else. Every byte of the frame buffer but the written one reads as before. -/
def Obligations.HostWritesEveryRegister : Prop :=
  ∀ (s : State) (rest : List HostOp) (n : BitVec 8) (v : Word), s.host = .write n v :: rest → s.resetIn = false →
    s.busy = false → n ≠ 0x82#8 →
    ∃ t, step s = .next t
      ∧ t = { s with host := rest, fb := t.fb, len := t.len, fmt := t.fmt }
      ∧ (∀ a : Nat, a ≠ n.toNat → Memory.stored t.fb a = Memory.stored s.fb a ∧ Memory.read t.fb a = Memory.read s.fb a)
      ∧ (n.toNat < 128 → Memory.stored t.fb n.toNat = some (v.setWidth 8))
      ∧ (128 ≤ n.toNat → t.fb = s.fb)
      ∧ t.len = (if n = 0x80#8 then v.setWidth 7 else s.len)
      ∧ t.fmt = (if n = 0x81#8 then v.setWidth 8 else s.fmt)

/-- A result register whose presence bit is 0 has no value (R14): a host read of it answers so, never a number. -/
def Obligations.AbsentResultHasNoValue : Prop :=
  ∀ (s : State) (rest : List HostOp) (n : Fin 39), s.present.getLsbD n.val = false →
    s.result? n = none
    ∧ (s.host = .read (BitVec.ofNat 8 (0xC0 + n.val)) :: rest → s.resetIn = false →
      ∃ t, step s = .next t ∧ t.reply = .noValue)

/-- Asserting `reset` in any state, during a decode too (R200, R201, R202): the reset state, `FB` and the ROM unchanged; while it is
asserted the sequencer has no step and host writes and `START` are ignored; after release the block is idle. -/
def Obligations.ResetLine : Prop :=
  (∀ (s : State) (rest : List HostOp), s.host = .reset true :: rest →
    ∃ t, step s = .next t
      ∧ t.busy = false ∧ t.done = false ∧ t.err = false ∧ t.warn = false ∧ t.irqDone = false
      ∧ t.present = 0#39 ∧ t.unit = 0#10 ∧ t.len = 0#7 ∧ t.fmt = 0#8 ∧ t.cur = 0#8 ∧ t.seq = 0#7
      ∧ t.resetIn = true ∧ t.fb = s.fb ∧ t.lrom = s.lrom ∧ t.order = s.order ∧ t.host = rest)
  ∧ (∀ (s : State) (rest : List HostOp), s.resetIn = true →
    (s.host = [] → step s = .next s)
    ∧ (s.host = .pause :: rest → step s = .next { s with host := rest })
    ∧ (∀ (n : BitVec 8) (v : Word), s.host = .write n v :: rest → step s = .next { s with host := rest })
    ∧ (s.host = .command :: rest → step s = .next { s with host := rest })
    ∧ (s.host = .reset false :: rest → step s = .next { s with host := rest, resetIn := false }))

/-- The values the spec gives for the state after reset (R29). What R29 leaves unspecified (`SCALE`, `R[]`, `FB`) is not
stated, nor which curve order the parameter has (log entry 6): `LROM` holds its contents for the order that it has. -/
def Obligations.ResetValues : Prop :=
  State.reset.statusWord = 0#4 ∧ State.reset.present = 0#39 ∧ State.reset.unit = 0#10 ∧ State.reset.len = 0#7
    ∧ State.reset.fmt = 0#8 ∧ State.reset.cur = 0#8 ∧ State.reset.seq = 0#7
    ∧ State.reset.lrom = lromImage State.reset.order ∧ State.reset.irqDone = false
    ∧ tableA10 = offsetsA ∧ tableC10 = offsetsC

/-- Results stay until the next `START` or reset (R209, R50): a step that is neither leaves the observation of a finished decode as it
was; after the next `START` the results are gone, even if it is a no-op. -/
def Obligations.ResultsStayUntilTheNextStart : Prop :=
  (∀ (s t : State), Inv s → s.done = true → step s = .next t →
    (∀ (rest : List HostOp) (v : Word), s.host = .write 0x82#8 v :: rest → v.getLsbD 0 = false) →
    (∀ rest : List HostOp, s.host ≠ .command :: rest) →
    (∀ rest : List HostOp, s.host ≠ .reset true :: rest) →
    SameObservation s t)
  ∧ (∀ (s : State) (rest : List HostOp) (v : Word), s.host = .write 0x82#8 v :: rest → s.resetIn = false →
    v.getLsbD 0 = true → s.busy = false →
    ∃ t, step s = .next t ∧ t.present = 0#39 ∧ t.unit = 0#10 ∧ ∀ n : Fin 39, t.result? n = none)

/-- `irq_done` (R177) equals `DONE` in every state; in a run it falls only at a `START` or at reset. -/
def Obligations.IrqDoneFallsOnlyAtStartOrReset : Prop :=
  (∀ s : State, s.irqDone = s.done)
  ∧ (∀ (s t : State), Inv s → step s = .next t → s.irqDone = true → t.irqDone = false →
    (∃ (rest : List HostOp) (v : Word), s.host = .write 0x82#8 v :: rest ∧ v.getLsbD 0 = true ∧ s.busy = false)
    ∨ (∃ rest : List HostOp, s.host = .reset true :: rest))

/-- The only ways a decode ends (R144, R201): a step that clears `BUSY` sets `DONE`, or it is reset. -/
def Obligations.DecodeEndsWithDoneOrReset : Prop :=
  ∀ (s t : State), Inv s → s.busy = true → step s = .next t → t.busy = false →
    t.done = true ∨ ∃ rest : List HostOp, s.host = .reset true :: rest

/-- While a decode runs undisturbed (R15, R16, R144): `SEQ` goes up by exactly one or the decode ends with `SEQ` unchanged; `CUR`
never falls; neither wraps nor passes 0x44 and 99. -/
def Obligations.SequencerIsStraightLine : Prop :=
  ∀ (s : State), Inv s → s.undisturbed → s.busy = true →
    ∃ t, step s = .next t
      ∧ ((t.busy = true ∧ t.done = false ∧ t.seq.toNat = s.seq.toNat + 1)
        ∨ (t.busy = false ∧ t.done = true ∧ t.seq = s.seq ∧ t.cur = s.cur))
      ∧ s.cur.toNat ≤ t.cur.toNat ∧ t.cur.toNat ≤ 99 ∧ t.seq.toNat ≤ 0x44

/-! ## Headline results -/

/-- The invariant holds right after reset. -/
def Obligations.ResetMeetsTheInvariant : Prop := Inv State.reset

/-- Every step keeps the invariant, from every state that meets it, whatever the host does. -/
def Obligations.EveryStepKeepsTheInvariant : Prop :=
  ∀ s t : State, Inv s → step s = .next t → Inv t

/-- Nothing stops the machine: under the invariant every step answers a next state (R170: nothing else in the block can fail; R143:
there is no state in which `BUSY` = 1 and the sequencer cannot step). -/
def Obligations.NothingStopsARun : Prop :=
  ∀ s : State, Inv s → ∃ t, step s = .next t

/-- Every decode terminates (R143): after `START` with a recognised format at most 21, 14 or 34 steps; with another format none. -/
def Obligations.EveryDecodeTerminates : Prop :=
  (∀ s : State, Inv s → s.undisturbed → s.busy = false →
    (s.fmt = 22#8 → ∃ k t, k ≤ 21 ∧ run k (start s) = .next t ∧ t.busy = false ∧ t.done = true)
    ∧ (s.fmt = 21#8 → ∃ k t, k ≤ 14 ∧ run k (start s) = .next t ∧ t.busy = false ∧ t.done = true)
    ∧ (s.fmt = 10#8 → ∃ k t, k ≤ 34 ∧ run k (start s) = .next t ∧ t.busy = false ∧ t.done = true)
    ∧ (s.fmt ≠ 22#8 → s.fmt ≠ 21#8 → s.fmt ≠ 10#8 → (start s).busy = false ∧ (start s).done = true))
  ∧ (∀ s : State, Inv s → s.resetIn = false → s.busy = true → ∃ t, sequencerTurn s = .next t)

/-- `REQ` (R120): a decode ends in `BufferTooShort` if and only if `LEN` is below 19, 18 or 50, and a step raises it exactly when the
read it makes lacks a byte, so the first such read does. -/
def Obligations.ShortFramesFailAndOnlyThey : Prop :=
  (∀ s : State, Inv s → s.undisturbed → s.busy = false →
    (s.fmt = 22#8 → ∃ t, run 21 (start s) = .next t ∧ t.done = true ∧ (t.err = true ↔ s.len.toNat < 19))
    ∧ (s.fmt = 21#8 → ∃ t, run 14 (start s) = .next t ∧ t.done = true ∧ (t.err = true ↔ s.len.toNat < 18))
    ∧ (s.fmt = 10#8 → ∃ t, run 34 (start s) = .next t ∧ t.done = true ∧ (t.err = true ↔ s.len.toNat < 50)))
  ∧ (∀ s : State, Inv s → s.undisturbed → s.busy = true →
    (step s = .next (bufferTooShort s) ↔
      (s.fmt = 22#8 ∧ s.seq.toNat ≤ 0x12 ∧ s.len.toNat < s.seq.toNat + 1)
      ∨ (s.fmt = 21#8 ∧ s.seq.toNat ≤ 0x20 ∧ s.len.toNat < 3 * (s.seq.toNat - 0x15) / 2 + 2)
      ∨ (s.fmt = 10#8 ∧ s.seq.toNat ≤ 0x43 ∧ s.len.toNat < 3 * (s.seq.toNat - 0x23) / 2 + 2)))

/-- The two levels agree (R154): `START` and the sequencer steps until `DONE` leave `STATUS`, `UNIT`, `PRESENT` and every present
result exactly as the command does in one step, for every frame, length, format and curve order. -/
def Obligations.TheTwoLevelsAgree : Prop :=
  ∀ s : State, Inv s → s.undisturbed → s.busy = false →
    ∃ t u, run 34 (start s) = .next t ∧ exec (decodeCommand s.fmt) s = .next u
      ∧ t.done = true ∧ SameObservation t u ∧ InputsKept s t ∧ InputsKept s u

/-- Purity (R155, R27): the observation of a decode is a function of `FMT`, `LEN` and the bytes below both `LEN` and `REQ(FMT)` alone
(and of the curve order, a parameter), at both levels: two instances that agree on these, and on nothing else, end alike. -/
def Obligations.DecodingIsPure : Prop :=
  ∀ s s' : State, Inv s → Inv s' → s.undisturbed → s'.undisturbed → s.busy = false → s'.busy = false →
    s.fmt = s'.fmt → s.len = s'.len → s.order = s'.order →
    (∀ a : Nat, a < s.len.toNat → a < leastLength s.fmt → Memory.read s.fb a = Memory.read s'.fb a) →
    (∃ t t', run 34 (start s) = .next t ∧ run 34 (start s') = .next t' ∧ SameObservation t t')
    ∧ (∃ u u', exec (decodeCommand s.fmt) s = .next u ∧ exec (decodeCommand s'.fmt) s' = .next u' ∧ SameObservation u u')
end

