-- ==== Sys2Proof/Laws/Memory.lean ====
section
/-! SUPPORT. The laws of the frame buffer: read after write, and the canonical form. -/

namespace Sys2Proof.Machine

@[simp] theorem stored_nil (a : Nat) : Memory.stored [] a = none := rfl

theorem stored_cons (c : Host.Cell) (cs : Memory) (a : Nat) :
    Memory.stored (c :: cs) a = if c.1 = a then some c.2 else Memory.stored cs a := rfl

/-- Reading back the written address gives the written byte, any other address reads as before. -/
theorem stored_write (m : Memory) (a : Nat) (v : Byte) (x : Nat) :
    Memory.stored (Memory.write m a v) x = if x = a then some v else Memory.stored m x := by
  induction m with
  | nil => simp only [Memory.write, stored_cons, stored_nil, eq_comm]
  | cons c cs ih =>
    by_cases below : a < c.1
    · rw [Memory.write, if_pos below]
      simp only [stored_cons, eq_comm]
    · by_cases same : a = c.1
      · rw [Memory.write, if_neg below, if_pos same]
        simp only [stored_cons, same, eq_comm]
        split_ifs <;> rfl
      · rw [Memory.write, if_neg below, if_neg same]
        simp only [stored_cons, ih]
        by_cases here : c.1 = x
        · rw [if_pos here, if_neg (by omega), if_pos here]
        · rw [if_neg here, if_neg here]

theorem read_write (m : Memory) (a : Nat) (v : Byte) (x : Nat) :
    Memory.read (Memory.write m a v) x = if x = a then v else Memory.read m x := by
  unfold Memory.read
  rw [stored_write]
  split_ifs <;> rfl

@[simp] theorem read_write_same (m : Memory) (a : Nat) (v : Byte) :
    Memory.read (Memory.write m a v) a = v := by simp [read_write]

theorem read_write_other (m : Memory) {a x : Nat} (v : Byte) (h : x ≠ a) :
    Memory.read (Memory.write m a v) x = Memory.read m x := by simp [read_write, h]

theorem risingAbove_write {b : Nat} {m : Memory} (h : Memory.risingAbove b m = true) {a : Nat} (hb : b < a)
    (v : Byte) : Memory.risingAbove b (Memory.write m a v) = true := by
  induction m generalizing b with
  | nil => simpa [Memory.write, Memory.risingAbove] using hb
  | cons c cs ih =>
    simp only [Memory.risingAbove, Bool.and_eq_true, decide_eq_true_eq] at h
    unfold Memory.write
    split_ifs with below same
    · simp [Memory.risingAbove, hb, below, h.2]
    · subst same
      simp [Memory.risingAbove, hb, h.2]
    · simp only [Memory.risingAbove, Bool.and_eq_true, decide_eq_true_eq]
      exact ⟨h.1, ih h.2 (by omega)⟩

theorem all_below_write {m : Memory} {a : Nat} (v : Byte) (h : m.all (fun c => decide (c.1 < 128)) = true)
    (ha : a < 128) : (Memory.write m a v).all (fun c => decide (c.1 < 128)) = true := by
  induction m with
  | nil => simpa [Memory.write] using ha
  | cons c cs ih =>
    rw [List.all_cons, Bool.and_eq_true] at h
    unfold Memory.write
    split_ifs <;> simp only [List.all_cons, Bool.and_eq_true, decide_eq_true_eq]
    · exact ⟨ha, by simpa using h.1, h.2⟩
    · exact ⟨ha, h.2⟩
    · exact ⟨by simpa using h.1, ih h.2⟩

/-- A write at an address of the frame buffer keeps the canonical form. -/
theorem wf_write {m : Memory} (h : Memory.wf m = true) {a : Nat} (ha : a < 128) (v : Byte) :
    Memory.wf (Memory.write m a v) = true := by
  unfold Memory.wf at h ⊢
  rw [Bool.and_eq_true] at h ⊢
  refine ⟨?_, all_below_write v h.2 ha⟩
  cases m with
  | nil => rfl
  | cons c cs =>
    have rising := h.1
    simp only at rising
    unfold Memory.write
    split_ifs with below same
    · simp [Memory.risingAbove, below, rising]
    · subst same
      exact rising
    · exact risingAbove_write rising (by omega) v

theorem reset_memory_wf : Memory.wf State.reset.fb = true := rfl

theorem stored_of_risingAbove {b : Nat} {m : Memory} (h : Memory.risingAbove b m = true) {a : Nat} (ha : a ≤ b) :
    Memory.stored m a = none := by
  induction m generalizing b with
  | nil => rfl
  | cons c cs ih =>
    simp only [Memory.risingAbove, Bool.and_eq_true, decide_eq_true_eq] at h
    rw [stored_cons, if_neg (by omega)]
    exact ih h.2 (by omega)

theorem rising_ext {m m' : Memory}
    (h : (match m with | [] => true | c :: cs => Memory.risingAbove c.1 cs) = true)
    (h' : (match m' with | [] => true | c :: cs => Memory.risingAbove c.1 cs) = true)
    (same : ∀ a, Memory.stored m a = Memory.stored m' a) : m = m' := by
  induction m generalizing m' with
  | nil =>
    cases m' with
    | nil => rfl
    | cons c cs => simpa [stored_cons] using same c.1
  | cons c cs ih =>
    cases m' with
    | nil => simpa [stored_cons] using same c.1
    | cons d ds =>
      simp only at h h'
      have first : c.1 = d.1 := by
        rcases Nat.lt_trichotomy c.1 d.1 with lt | eq | gt
        · have := same c.1
          rw [stored_cons, if_pos rfl, stored_cons, if_neg (by omega), stored_of_risingAbove h' (by omega)] at this
          cases this
        · exact eq
        · have := same d.1
          rw [stored_cons, if_neg (by omega), stored_of_risingAbove h (by omega), stored_cons, if_pos rfl] at this
          cases this
      have value : c.2 = d.2 := by
        have := same c.1
        rw [stored_cons, if_pos rfl, stored_cons, if_pos first.symm] at this
        exact Option.some.inj this
      have tail : cs = ds := by
        apply ih
        · cases cs with
          | nil => rfl
          | cons e es => simp only [Memory.risingAbove, Bool.and_eq_true] at h; exact h.2
        · cases ds with
          | nil => rfl
          | cons e es => simp only [Memory.risingAbove, Bool.and_eq_true] at h'; exact h'.2
        · intro a
          by_cases at_first : a = c.1
          · rw [stored_of_risingAbove h (by omega), stored_of_risingAbove h' (by omega)]
          · have := same a
            rwa [stored_cons, if_neg (by omega), stored_cons, if_neg (by omega)] at this
      rw [tail, Prod.ext first value]

/-- Two canonical memories that store the same bytes are the same list. -/
theorem wf_ext {m m' : Memory} (h : Memory.wf m = true) (h' : Memory.wf m' = true)
    (same : ∀ a, Memory.stored m a = Memory.stored m' a) : m = m' := by
  unfold Memory.wf at h h'
  rw [Bool.and_eq_true] at h h'
  exact rising_ext h.1 h'.1 same

end Sys2Proof.Machine
end

