-- ==== Sys2Proof/Laws/State.lean ====
section
/-! SUPPORT. For every named update of the state and every field: what the field is afterwards. -/

namespace Sys2Proof.Machine

/-! ## setResult -/

@[simp] theorem setResult_fb (s : State) (n : Fin 39) (w : Word) : (s.setResult n w).fb = s.fb := rfl
@[simp] theorem setResult_len (s : State) (n : Fin 39) (w : Word) : (s.setResult n w).len = s.len := rfl
@[simp] theorem setResult_fmt (s : State) (n : Fin 39) (w : Word) : (s.setResult n w).fmt = s.fmt := rfl
@[simp] theorem setResult_busy (s : State) (n : Fin 39) (w : Word) : (s.setResult n w).busy = s.busy := rfl
@[simp] theorem setResult_done (s : State) (n : Fin 39) (w : Word) : (s.setResult n w).done = s.done := rfl
@[simp] theorem setResult_err (s : State) (n : Fin 39) (w : Word) : (s.setResult n w).err = s.err := rfl
@[simp] theorem setResult_warn (s : State) (n : Fin 39) (w : Word) : (s.setResult n w).warn = s.warn := rfl
@[simp] theorem setResult_unit (s : State) (n : Fin 39) (w : Word) : (s.setResult n w).unit = s.unit := rfl
@[simp] theorem setResult_present (s : State) (n : Fin 39) (w : Word) : (s.setResult n w).present = s.present := rfl
@[simp] theorem setResult_r (s : State) (n : Fin 39) (w : Word) : (s.setResult n w).r = s.r.set n.val w := rfl
@[simp] theorem setResult_cur (s : State) (n : Fin 39) (w : Word) : (s.setResult n w).cur = s.cur := rfl
@[simp] theorem setResult_seq (s : State) (n : Fin 39) (w : Word) : (s.setResult n w).seq = s.seq := rfl
@[simp] theorem setResult_scale (s : State) (n : Fin 39) (w : Word) : (s.setResult n w).scale = s.scale := rfl
@[simp] theorem setResult_resetIn (s : State) (n : Fin 39) (w : Word) : (s.setResult n w).resetIn = s.resetIn := rfl
@[simp] theorem setResult_lrom (s : State) (n : Fin 39) (w : Word) : (s.setResult n w).lrom = s.lrom := rfl
@[simp] theorem setResult_order (s : State) (n : Fin 39) (w : Word) : (s.setResult n w).order = s.order := rfl
@[simp] theorem setResult_host (s : State) (n : Fin 39) (w : Word) : (s.setResult n w).host = s.host := rfl
@[simp] theorem setResult_reply (s : State) (n : Fin 39) (w : Word) : (s.setResult n w).reply = s.reply := rfl
@[simp] theorem setResult_free (s : State) (n : Fin 39) (w : Word) : (s.setResult n w).free = s.free := rfl

/-! ## setResults -/

@[simp] theorem setResults_fb (s : State) (v : Vector Word 39) : (s.setResults v).fb = s.fb := rfl
@[simp] theorem setResults_len (s : State) (v : Vector Word 39) : (s.setResults v).len = s.len := rfl
@[simp] theorem setResults_fmt (s : State) (v : Vector Word 39) : (s.setResults v).fmt = s.fmt := rfl
@[simp] theorem setResults_busy (s : State) (v : Vector Word 39) : (s.setResults v).busy = s.busy := rfl
@[simp] theorem setResults_done (s : State) (v : Vector Word 39) : (s.setResults v).done = s.done := rfl
@[simp] theorem setResults_err (s : State) (v : Vector Word 39) : (s.setResults v).err = s.err := rfl
@[simp] theorem setResults_warn (s : State) (v : Vector Word 39) : (s.setResults v).warn = s.warn := rfl
@[simp] theorem setResults_unit (s : State) (v : Vector Word 39) : (s.setResults v).unit = s.unit := rfl
@[simp] theorem setResults_present (s : State) (v : Vector Word 39) : (s.setResults v).present = s.present := rfl
@[simp] theorem setResults_r (s : State) (v : Vector Word 39) : (s.setResults v).r = v := rfl
@[simp] theorem setResults_cur (s : State) (v : Vector Word 39) : (s.setResults v).cur = s.cur := rfl
@[simp] theorem setResults_seq (s : State) (v : Vector Word 39) : (s.setResults v).seq = s.seq := rfl
@[simp] theorem setResults_scale (s : State) (v : Vector Word 39) : (s.setResults v).scale = s.scale := rfl
@[simp] theorem setResults_resetIn (s : State) (v : Vector Word 39) : (s.setResults v).resetIn = s.resetIn := rfl
@[simp] theorem setResults_lrom (s : State) (v : Vector Word 39) : (s.setResults v).lrom = s.lrom := rfl
@[simp] theorem setResults_order (s : State) (v : Vector Word 39) : (s.setResults v).order = s.order := rfl
@[simp] theorem setResults_host (s : State) (v : Vector Word 39) : (s.setResults v).host = s.host := rfl
@[simp] theorem setResults_reply (s : State) (v : Vector Word 39) : (s.setResults v).reply = s.reply := rfl
@[simp] theorem setResults_free (s : State) (v : Vector Word 39) : (s.setResults v).free = s.free := rfl

/-! ## advance -/

@[simp] theorem advance_fb (s : State) (k : Nat) : (s.advance k).fb = s.fb := rfl
@[simp] theorem advance_len (s : State) (k : Nat) : (s.advance k).len = s.len := rfl
@[simp] theorem advance_fmt (s : State) (k : Nat) : (s.advance k).fmt = s.fmt := rfl
@[simp] theorem advance_busy (s : State) (k : Nat) : (s.advance k).busy = s.busy := rfl
@[simp] theorem advance_done (s : State) (k : Nat) : (s.advance k).done = s.done := rfl
@[simp] theorem advance_err (s : State) (k : Nat) : (s.advance k).err = s.err := rfl
@[simp] theorem advance_warn (s : State) (k : Nat) : (s.advance k).warn = s.warn := rfl
@[simp] theorem advance_unit (s : State) (k : Nat) : (s.advance k).unit = s.unit := rfl
@[simp] theorem advance_present (s : State) (k : Nat) : (s.advance k).present = s.present := rfl
@[simp] theorem advance_r (s : State) (k : Nat) : (s.advance k).r = s.r := rfl
@[simp] theorem advance_cur (s : State) (k : Nat) : (s.advance k).cur = s.cur + BitVec.ofNat 8 k := rfl
@[simp] theorem advance_seq (s : State) (k : Nat) : (s.advance k).seq = s.seq + 1#7 := rfl
@[simp] theorem advance_scale (s : State) (k : Nat) : (s.advance k).scale = s.scale := rfl
@[simp] theorem advance_resetIn (s : State) (k : Nat) : (s.advance k).resetIn = s.resetIn := rfl
@[simp] theorem advance_lrom (s : State) (k : Nat) : (s.advance k).lrom = s.lrom := rfl
@[simp] theorem advance_order (s : State) (k : Nat) : (s.advance k).order = s.order := rfl
@[simp] theorem advance_host (s : State) (k : Nat) : (s.advance k).host = s.host := rfl
@[simp] theorem advance_reply (s : State) (k : Nat) : (s.advance k).reply = s.reply := rfl
@[simp] theorem advance_free (s : State) (k : Nat) : (s.advance k).free = s.free := rfl

/-! ## bufferTooShort -/

@[simp] theorem bufferTooShort_fb (s : State) : (bufferTooShort s).fb = s.fb := rfl
@[simp] theorem bufferTooShort_len (s : State) : (bufferTooShort s).len = s.len := rfl
@[simp] theorem bufferTooShort_fmt (s : State) : (bufferTooShort s).fmt = s.fmt := rfl
@[simp] theorem bufferTooShort_busy (s : State) : (bufferTooShort s).busy = false := rfl
@[simp] theorem bufferTooShort_done (s : State) : (bufferTooShort s).done = true := rfl
@[simp] theorem bufferTooShort_err (s : State) : (bufferTooShort s).err = true := rfl
@[simp] theorem bufferTooShort_warn (s : State) : (bufferTooShort s).warn = s.warn := rfl
@[simp] theorem bufferTooShort_unit (s : State) : (bufferTooShort s).unit = s.unit := rfl
@[simp] theorem bufferTooShort_present (s : State) : (bufferTooShort s).present = s.present := rfl
@[simp] theorem bufferTooShort_r (s : State) : (bufferTooShort s).r = s.r := rfl
@[simp] theorem bufferTooShort_cur (s : State) : (bufferTooShort s).cur = s.cur := rfl
@[simp] theorem bufferTooShort_seq (s : State) : (bufferTooShort s).seq = s.seq := rfl
@[simp] theorem bufferTooShort_scale (s : State) : (bufferTooShort s).scale = s.scale := rfl
@[simp] theorem bufferTooShort_resetIn (s : State) : (bufferTooShort s).resetIn = s.resetIn := rfl
@[simp] theorem bufferTooShort_lrom (s : State) : (bufferTooShort s).lrom = s.lrom := rfl
@[simp] theorem bufferTooShort_order (s : State) : (bufferTooShort s).order = s.order := rfl
@[simp] theorem bufferTooShort_host (s : State) : (bufferTooShort s).host = s.host := rfl
@[simp] theorem bufferTooShort_reply (s : State) : (bufferTooShort s).reply = s.reply := rfl
@[simp] theorem bufferTooShort_free (s : State) : (bufferTooShort s).free = s.free := rfl

/-! ## clearDecode -/

@[simp] theorem clearDecode_fb (s : State) : (clearDecode s).fb = s.fb := rfl
@[simp] theorem clearDecode_len (s : State) : (clearDecode s).len = s.len := rfl
@[simp] theorem clearDecode_fmt (s : State) : (clearDecode s).fmt = s.fmt := rfl
@[simp] theorem clearDecode_busy (s : State) : (clearDecode s).busy = s.busy := rfl
@[simp] theorem clearDecode_done (s : State) : (clearDecode s).done = false := rfl
@[simp] theorem clearDecode_err (s : State) : (clearDecode s).err = false := rfl
@[simp] theorem clearDecode_warn (s : State) : (clearDecode s).warn = false := rfl
@[simp] theorem clearDecode_unit (s : State) : (clearDecode s).unit = 0#10 := rfl
@[simp] theorem clearDecode_present (s : State) : (clearDecode s).present = 0#39 := rfl
@[simp] theorem clearDecode_r (s : State) : (clearDecode s).r = s.r := rfl
@[simp] theorem clearDecode_cur (s : State) : (clearDecode s).cur = 0#8 := rfl
@[simp] theorem clearDecode_seq (s : State) : (clearDecode s).seq = s.seq := rfl
@[simp] theorem clearDecode_scale (s : State) : (clearDecode s).scale = s.scale := rfl
@[simp] theorem clearDecode_resetIn (s : State) : (clearDecode s).resetIn = s.resetIn := rfl
@[simp] theorem clearDecode_lrom (s : State) : (clearDecode s).lrom = s.lrom := rfl
@[simp] theorem clearDecode_order (s : State) : (clearDecode s).order = s.order := rfl
@[simp] theorem clearDecode_host (s : State) : (clearDecode s).host = s.host := rfl
@[simp] theorem clearDecode_reply (s : State) : (clearDecode s).reply = s.reply := rfl
@[simp] theorem clearDecode_free (s : State) : (clearDecode s).free = s.free := rfl

/-! ## beginDecode -/

@[simp] theorem beginDecode_fb (s : State) : (beginDecode s).fb = s.fb := rfl
@[simp] theorem beginDecode_len (s : State) : (beginDecode s).len = s.len := rfl
@[simp] theorem beginDecode_fmt (s : State) : (beginDecode s).fmt = s.fmt := rfl
@[simp] theorem beginDecode_busy (s : State) : (beginDecode s).busy = true := rfl
@[simp] theorem beginDecode_done (s : State) : (beginDecode s).done = false := rfl
@[simp] theorem beginDecode_err (s : State) : (beginDecode s).err = false := rfl
@[simp] theorem beginDecode_warn (s : State) : (beginDecode s).warn = false := rfl
@[simp] theorem beginDecode_unit (s : State) : (beginDecode s).unit = 0#10 := rfl
@[simp] theorem beginDecode_present (s : State) : (beginDecode s).present = 0#39 := rfl
@[simp] theorem beginDecode_r (s : State) : (beginDecode s).r = s.r := rfl
@[simp] theorem beginDecode_cur (s : State) : (beginDecode s).cur = 0#8 := rfl
@[simp] theorem beginDecode_seq (s : State) : (beginDecode s).seq = lbase s.fmt := rfl
@[simp] theorem beginDecode_scale (s : State) : (beginDecode s).scale = s.scale := rfl
@[simp] theorem beginDecode_resetIn (s : State) : (beginDecode s).resetIn = s.resetIn := rfl
@[simp] theorem beginDecode_lrom (s : State) : (beginDecode s).lrom = s.lrom := rfl
@[simp] theorem beginDecode_order (s : State) : (beginDecode s).order = s.order := rfl
@[simp] theorem beginDecode_host (s : State) : (beginDecode s).host = s.host := rfl
@[simp] theorem beginDecode_reply (s : State) : (beginDecode s).reply = s.reply := rfl
@[simp] theorem beginDecode_free (s : State) : (beginDecode s).free = s.free := rfl

/-! ## warnUnrecognised -/

@[simp] theorem warnUnrecognised_fb (s : State) : (warnUnrecognised s).fb = s.fb := rfl
@[simp] theorem warnUnrecognised_len (s : State) : (warnUnrecognised s).len = s.len := rfl
@[simp] theorem warnUnrecognised_fmt (s : State) : (warnUnrecognised s).fmt = s.fmt := rfl
@[simp] theorem warnUnrecognised_busy (s : State) : (warnUnrecognised s).busy = s.busy := rfl
@[simp] theorem warnUnrecognised_done (s : State) : (warnUnrecognised s).done = true := rfl
@[simp] theorem warnUnrecognised_err (s : State) : (warnUnrecognised s).err = false := rfl
@[simp] theorem warnUnrecognised_warn (s : State) : (warnUnrecognised s).warn = true := rfl
@[simp] theorem warnUnrecognised_unit (s : State) : (warnUnrecognised s).unit = 0#10 := rfl
@[simp] theorem warnUnrecognised_present (s : State) : (warnUnrecognised s).present = 0#39 := rfl
@[simp] theorem warnUnrecognised_r (s : State) : (warnUnrecognised s).r = s.r := rfl
@[simp] theorem warnUnrecognised_cur (s : State) : (warnUnrecognised s).cur = 0#8 := rfl
@[simp] theorem warnUnrecognised_seq (s : State) : (warnUnrecognised s).seq = s.seq := rfl
@[simp] theorem warnUnrecognised_scale (s : State) : (warnUnrecognised s).scale = s.scale := rfl
@[simp] theorem warnUnrecognised_resetIn (s : State) : (warnUnrecognised s).resetIn = s.resetIn := rfl
@[simp] theorem warnUnrecognised_lrom (s : State) : (warnUnrecognised s).lrom = s.lrom := rfl
@[simp] theorem warnUnrecognised_order (s : State) : (warnUnrecognised s).order = s.order := rfl
@[simp] theorem warnUnrecognised_host (s : State) : (warnUnrecognised s).host = s.host := rfl
@[simp] theorem warnUnrecognised_reply (s : State) : (warnUnrecognised s).reply = s.reply := rfl
@[simp] theorem warnUnrecognised_free (s : State) : (warnUnrecognised s).free = s.free := rfl

/-! ## publish -/

@[simp] theorem publish_fb (f : Byte) (s : State) : (publish f s).fb = s.fb := rfl
@[simp] theorem publish_len (f : Byte) (s : State) : (publish f s).len = s.len := rfl
@[simp] theorem publish_fmt (f : Byte) (s : State) : (publish f s).fmt = s.fmt := rfl
@[simp] theorem publish_busy (f : Byte) (s : State) : (publish f s).busy = false := rfl
@[simp] theorem publish_done (f : Byte) (s : State) : (publish f s).done = true := rfl
@[simp] theorem publish_err (f : Byte) (s : State) : (publish f s).err = s.err := rfl
@[simp] theorem publish_warn (f : Byte) (s : State) : (publish f s).warn = s.warn := rfl
@[simp] theorem publish_unit (f : Byte) (s : State) : (publish f s).unit = unitOf f := rfl
@[simp] theorem publish_present (f : Byte) (s : State) : (publish f s).present = presenceMask f := rfl
@[simp] theorem publish_r (f : Byte) (s : State) : (publish f s).r = s.r := rfl
@[simp] theorem publish_cur (f : Byte) (s : State) : (publish f s).cur = s.cur := rfl
@[simp] theorem publish_seq (f : Byte) (s : State) : (publish f s).seq = s.seq := rfl
@[simp] theorem publish_scale (f : Byte) (s : State) : (publish f s).scale = s.scale := rfl
@[simp] theorem publish_resetIn (f : Byte) (s : State) : (publish f s).resetIn = s.resetIn := rfl
@[simp] theorem publish_lrom (f : Byte) (s : State) : (publish f s).lrom = s.lrom := rfl
@[simp] theorem publish_order (f : Byte) (s : State) : (publish f s).order = s.order := rfl
@[simp] theorem publish_host (f : Byte) (s : State) : (publish f s).host = s.host := rfl
@[simp] theorem publish_reply (f : Byte) (s : State) : (publish f s).reply = s.reply := rfl
@[simp] theorem publish_free (f : Byte) (s : State) : (publish f s).free = s.free := rfl

/-! ## failedDecode -/

@[simp] theorem failedDecode_fb (f : Byte) (s : State) : (failedDecode f s).fb = s.fb := rfl
@[simp] theorem failedDecode_len (f : Byte) (s : State) : (failedDecode f s).len = s.len := rfl
@[simp] theorem failedDecode_fmt (f : Byte) (s : State) : (failedDecode f s).fmt = s.fmt := rfl
@[simp] theorem failedDecode_busy (f : Byte) (s : State) : (failedDecode f s).busy = false := rfl
@[simp] theorem failedDecode_done (f : Byte) (s : State) : (failedDecode f s).done = true := rfl
@[simp] theorem failedDecode_err (f : Byte) (s : State) : (failedDecode f s).err = true := rfl
@[simp] theorem failedDecode_warn (f : Byte) (s : State) : (failedDecode f s).warn = false := rfl
@[simp] theorem failedDecode_unit (f : Byte) (s : State) : (failedDecode f s).unit = 0#10 := rfl
@[simp] theorem failedDecode_present (f : Byte) (s : State) : (failedDecode f s).present = 0#39 := rfl
@[simp] theorem failedDecode_r (f : Byte) (s : State) : (failedDecode f s).r = s.r := rfl
@[simp] theorem failedDecode_cur (f : Byte) (s : State) : (failedDecode f s).cur = 0#8 := rfl
@[simp] theorem failedDecode_seq (f : Byte) (s : State) : (failedDecode f s).seq = lbase f := rfl
@[simp] theorem failedDecode_scale (f : Byte) (s : State) : (failedDecode f s).scale = s.scale := rfl
@[simp] theorem failedDecode_resetIn (f : Byte) (s : State) : (failedDecode f s).resetIn = s.resetIn := rfl
@[simp] theorem failedDecode_lrom (f : Byte) (s : State) : (failedDecode f s).lrom = s.lrom := rfl
@[simp] theorem failedDecode_order (f : Byte) (s : State) : (failedDecode f s).order = s.order := rfl
@[simp] theorem failedDecode_host (f : Byte) (s : State) : (failedDecode f s).host = s.host := rfl
@[simp] theorem failedDecode_reply (f : Byte) (s : State) : (failedDecode f s).reply = s.reply := rfl
@[simp] theorem failedDecode_free (f : Byte) (s : State) : (failedDecode f s).free = s.free := rfl

/-! ## finishedDecode -/

@[simp] theorem finishedDecode_fb (f : Byte) (c : BitVec 8) (b : Byte) (q : Nat → Option Int) (s : State) :
    (finishedDecode f c b q s).fb = s.fb := rfl
@[simp] theorem finishedDecode_len (f : Byte) (c : BitVec 8) (b : Byte) (q : Nat → Option Int) (s : State) :
    (finishedDecode f c b q s).len = s.len := rfl
@[simp] theorem finishedDecode_fmt (f : Byte) (c : BitVec 8) (b : Byte) (q : Nat → Option Int) (s : State) :
    (finishedDecode f c b q s).fmt = s.fmt := rfl
@[simp] theorem finishedDecode_busy (f : Byte) (c : BitVec 8) (b : Byte) (q : Nat → Option Int) (s : State) :
    (finishedDecode f c b q s).busy = false := rfl
@[simp] theorem finishedDecode_done (f : Byte) (c : BitVec 8) (b : Byte) (q : Nat → Option Int) (s : State) :
    (finishedDecode f c b q s).done = true := rfl
@[simp] theorem finishedDecode_err (f : Byte) (c : BitVec 8) (b : Byte) (q : Nat → Option Int) (s : State) :
    (finishedDecode f c b q s).err = false := rfl
@[simp] theorem finishedDecode_warn (f : Byte) (c : BitVec 8) (b : Byte) (q : Nat → Option Int) (s : State) :
    (finishedDecode f c b q s).warn = false := rfl
@[simp] theorem finishedDecode_unit (f : Byte) (c : BitVec 8) (b : Byte) (q : Nat → Option Int) (s : State) :
    (finishedDecode f c b q s).unit = unitOf f := rfl
@[simp] theorem finishedDecode_present (f : Byte) (c : BitVec 8) (b : Byte) (q : Nat → Option Int) (s : State) :
    (finishedDecode f c b q s).present = presenceMask f := rfl
@[simp] theorem finishedDecode_r (f : Byte) (c : BitVec 8) (b : Byte) (q : Nat → Option Int) (s : State) :
    (finishedDecode f c b q s).r = storeResults q s.r := rfl
@[simp] theorem finishedDecode_cur (f : Byte) (c : BitVec 8) (b : Byte) (q : Nat → Option Int) (s : State) :
    (finishedDecode f c b q s).cur = c := rfl
@[simp] theorem finishedDecode_seq (f : Byte) (c : BitVec 8) (b : Byte) (q : Nat → Option Int) (s : State) :
    (finishedDecode f c b q s).seq = lend f := rfl
@[simp] theorem finishedDecode_scale (f : Byte) (c : BitVec 8) (b : Byte) (q : Nat → Option Int) (s : State) :
    (finishedDecode f c b q s).scale = b := rfl
@[simp] theorem finishedDecode_resetIn (f : Byte) (c : BitVec 8) (b : Byte) (q : Nat → Option Int) (s : State) :
    (finishedDecode f c b q s).resetIn = s.resetIn := rfl
@[simp] theorem finishedDecode_lrom (f : Byte) (c : BitVec 8) (b : Byte) (q : Nat → Option Int) (s : State) :
    (finishedDecode f c b q s).lrom = s.lrom := rfl
@[simp] theorem finishedDecode_order (f : Byte) (c : BitVec 8) (b : Byte) (q : Nat → Option Int) (s : State) :
    (finishedDecode f c b q s).order = s.order := rfl
@[simp] theorem finishedDecode_host (f : Byte) (c : BitVec 8) (b : Byte) (q : Nat → Option Int) (s : State) :
    (finishedDecode f c b q s).host = s.host := rfl
@[simp] theorem finishedDecode_reply (f : Byte) (c : BitVec 8) (b : Byte) (q : Nat → Option Int) (s : State) :
    (finishedDecode f c b q s).reply = s.reply := rfl
@[simp] theorem finishedDecode_free (f : Byte) (c : BitVec 8) (b : Byte) (q : Nat → Option Int) (s : State) :
    (finishedDecode f c b q s).free = s.free := rfl

/-! ## assertReset -/

@[simp] theorem assertReset_fb (s : State) : (assertReset s).fb = s.fb := rfl
@[simp] theorem assertReset_len (s : State) : (assertReset s).len = 0#7 := rfl
@[simp] theorem assertReset_fmt (s : State) : (assertReset s).fmt = 0#8 := rfl
@[simp] theorem assertReset_busy (s : State) : (assertReset s).busy = false := rfl
@[simp] theorem assertReset_done (s : State) : (assertReset s).done = false := rfl
@[simp] theorem assertReset_err (s : State) : (assertReset s).err = false := rfl
@[simp] theorem assertReset_warn (s : State) : (assertReset s).warn = false := rfl
@[simp] theorem assertReset_unit (s : State) : (assertReset s).unit = 0#10 := rfl
@[simp] theorem assertReset_present (s : State) : (assertReset s).present = 0#39 := rfl
@[simp] theorem assertReset_r (s : State) : (assertReset s).r = Vector.ofFn fun n => Config.resetResult s.free n.val := rfl
@[simp] theorem assertReset_cur (s : State) : (assertReset s).cur = 0#8 := rfl
@[simp] theorem assertReset_seq (s : State) : (assertReset s).seq = 0#7 := rfl
@[simp] theorem assertReset_scale (s : State) : (assertReset s).scale = Config.resetScale s.free := rfl
@[simp] theorem assertReset_resetIn (s : State) : (assertReset s).resetIn = true := rfl
@[simp] theorem assertReset_lrom (s : State) : (assertReset s).lrom = s.lrom := rfl
@[simp] theorem assertReset_order (s : State) : (assertReset s).order = s.order := rfl
@[simp] theorem assertReset_host (s : State) : (assertReset s).host = s.host := rfl
@[simp] theorem assertReset_reply (s : State) : (assertReset s).reply = s.reply := rfl
@[simp] theorem assertReset_free (s : State) : (assertReset s).free = s.free + 1 := rfl

/-! ## releaseReset -/

@[simp] theorem releaseReset_fb (s : State) : (releaseReset s).fb = s.fb := rfl
@[simp] theorem releaseReset_len (s : State) : (releaseReset s).len = s.len := rfl
@[simp] theorem releaseReset_fmt (s : State) : (releaseReset s).fmt = s.fmt := rfl
@[simp] theorem releaseReset_busy (s : State) : (releaseReset s).busy = s.busy := rfl
@[simp] theorem releaseReset_done (s : State) : (releaseReset s).done = s.done := rfl
@[simp] theorem releaseReset_err (s : State) : (releaseReset s).err = s.err := rfl
@[simp] theorem releaseReset_warn (s : State) : (releaseReset s).warn = s.warn := rfl
@[simp] theorem releaseReset_unit (s : State) : (releaseReset s).unit = s.unit := rfl
@[simp] theorem releaseReset_present (s : State) : (releaseReset s).present = s.present := rfl
@[simp] theorem releaseReset_r (s : State) : (releaseReset s).r = s.r := rfl
@[simp] theorem releaseReset_cur (s : State) : (releaseReset s).cur = s.cur := rfl
@[simp] theorem releaseReset_seq (s : State) : (releaseReset s).seq = s.seq := rfl
@[simp] theorem releaseReset_scale (s : State) : (releaseReset s).scale = s.scale := rfl
@[simp] theorem releaseReset_resetIn (s : State) : (releaseReset s).resetIn = false := rfl
@[simp] theorem releaseReset_lrom (s : State) : (releaseReset s).lrom = s.lrom := rfl
@[simp] theorem releaseReset_order (s : State) : (releaseReset s).order = s.order := rfl
@[simp] theorem releaseReset_host (s : State) : (releaseReset s).host = s.host := rfl
@[simp] theorem releaseReset_reply (s : State) : (releaseReset s).reply = s.reply := rfl
@[simp] theorem releaseReset_free (s : State) : (releaseReset s).free = s.free := rfl

end Sys2Proof.Machine
end

