-- ==== Sys2Proof/Laws/Ops.lean ====
section
/-! SUPPORT. For each shared operation, once, everything it can do. -/

namespace Sys2Proof.Machine

/-! ## Result registers -/

@[simp] theorem getResult_setResult_same (s : State) (n : Fin 39) (w : Word) : (s.setResult n w).getResult n = w := by
  simp [State.getResult]

theorem getResult_setResult_other (s : State) {n k : Fin 39} (w : Word) (h : k ≠ n) :
    (s.setResult n w).getResult k = s.getResult k := by
  have : n.val ≠ k.val := fun e => h (Fin.ext e.symm)
  simp [State.getResult, this]

theorem result?_present {s : State} {n : Fin 39} (h : s.present.getLsbD n.val = true) :
    s.result? n = some (s.getResult n) := if_pos h

theorem result?_absent {s : State} {n : Fin 39} (h : s.present.getLsbD n.val = false) :
    s.result? n = none := if_neg (by rw [h]; decide)

/-! ## The readers -/

theorem byteFits_iff (i len : Nat) : byteFits i len = true ↔ i / 2 < len := decide_eq_true_iff

theorem byteFits_false (i len : Nat) : byteFits i len = false ↔ len ≤ i / 2 := by
  rw [← Bool.not_eq_true, byteFits_iff]; omega

theorem fieldFits_iff (i len : Nat) : fieldFits i len = true ↔ i / 2 + 2 ≤ len := decide_eq_true_iff

theorem fieldFits_false (i len : Nat) : fieldFits i len = false ↔ len < i / 2 + 2 := by
  rw [← Bool.not_eq_true, fieldFits_iff]; omega

theorem readByteField_fits {k : Byte → State → State} {s : State} (h : byteFits s.cur.toNat s.len.toNat = true) :
    readByteField k s = (k (Memory.read s.fb (byteOf s.cur.toNat)) s).advance 2 := by simp [readByteField, h]

theorem readByteField_short {k : Byte → State → State} {s : State} (h : byteFits s.cur.toNat s.len.toNat = false) :
    readByteField k s = bufferTooShort s := by simp [readByteField, h]

theorem readPackedField_fits {k : BitVec 12 → State → State} {s : State} (h : fieldFits s.cur.toNat s.len.toNat = true) :
    readPackedField k s = (k (extract12 s.fb s.cur.toNat) s).advance 3 := by simp [readPackedField, h]

theorem readPackedField_short {k : BitVec 12 → State → State} {s : State}
    (h : fieldFits s.cur.toNat s.len.toNat = false) : readPackedField k s = bufferTooShort s := by
  simp [readPackedField, h]

theorem withDestination_ok {w : Byte} {d : BitVec 6} {k : Fin 39 → State} (h : d.toNat < 39) :
    withDestination w d k = .next (k ⟨d.toNat, h⟩) := by simp [withDestination, h]

theorem withDestination_reserved {w : Byte} {d : BitVec 6} {k : Fin 39 → State} (h : 39 ≤ d.toNat) :
    withDestination w d k = .refused (.reservedWord w) := by simp [withDestination, Nat.not_lt.mpr h]

/-- A read that passes its check has a byte below 127, so no address leaves the buffer (R46). -/
theorem byteFits_address {i : Nat} {l : BitVec 7} (h : byteFits i l.toNat = true) : byteOf i < 127 := by
  have := l.isLt
  simp only [byteFits, decide_eq_true_eq] at h
  omega

theorem fieldFits_address {i : Nat} {l : BitVec 7} (h : fieldFits i l.toNat = true) : byteOf i + 1 < 127 := by
  have := l.isLt
  simp only [fieldFits, decide_eq_true_eq] at h
  omega

/-- The cursor does not wrap when a byte read completes. -/
theorem cur_after_byte {s : State} (h : byteFits s.cur.toNat s.len.toNat = true) :
    (s.cur + BitVec.ofNat 8 2).toNat = s.cur.toNat + 2 := by
  have := byteFits_address h
  simp only [byteOf] at this
  rw [BitVec.toNat_add]
  simp only [BitVec.toNat_ofNat]
  omega

/-- The cursor does not wrap when a 12-bit read completes. -/
theorem cur_after_field {s : State} (h : fieldFits s.cur.toNat s.len.toNat = true) :
    (s.cur + BitVec.ofNat 8 3).toNat = s.cur.toNat + 3 := by
  have := fieldFits_address h
  simp only [byteOf] at this
  rw [BitVec.toNat_add]
  simp only [BitVec.toNat_ofNat]
  omega

/-- The scaler's product is exact: no bit is lost in 32 bits (R98). -/
theorem scaledWord_toNat (s r : Byte) : (scaledWord s r).toNat = 2 * (s.toNat * r.toNat) := by
  have hs := s.isLt
  have hr := r.isLt
  have : s.toNat * r.toNat ≤ 255 * 255 := Nat.mul_le_mul (by omega) (by omega)
  rw [scaledWord, BitVec.toNat_ofNat]
  omega

theorem scaledWord_toInt (s r : Byte) : (scaledWord s r).toInt = 2 * ((s.toNat : Int) * (r.toNat : Int)) := by
  have hs := s.isLt
  have hr := r.isLt
  have : s.toNat * r.toNat ≤ 255 * 255 := Nat.mul_le_mul (by omega) (by omega)
  rw [BitVec.toInt_eq_toNat_of_lt (by rw [scaledWord_toNat]; omega), scaledWord_toNat]
  push_cast
  ring

/-! ## START and the port -/

theorem start_busy {s : State} (h : s.busy = true) : start s = s := by simp [start, h]

theorem start_recognised {s : State} (h : s.busy = false) (hf : recognised s.fmt = true) :
    start s = beginDecode s := by simp [start, h, hf]

theorem start_unrecognised {s : State} (h : s.busy = false) (hf : recognised s.fmt = false) :
    start s = warnUnrecognised s := by simp [start, h, hf]

theorem recognised_iff (f : Byte) : recognised f = true ↔ f = 22#8 ∨ f = 21#8 ∨ f = 10#8 := by
  simp [recognised, or_assoc]

theorem portWrite_busy {n : BitVec 8} {v : Word} {s : State} (h : s.busy = true) : portWrite n v s = s := by
  simp [portWrite, writeRegister, h]

theorem portWrite_inReset {n : BitVec 8} {v : Word} {s : State} (h : s.resetIn = true) : portWrite n v s = s := by
  simp [portWrite, h]

theorem portRead_reply {n : BitVec 8} {s : State} (h : s.resetIn = false) :
    (portRead n s).reply = readRegister n s := by simp [portRead, h]

/-- A host read changes the reply and the count of free values only. -/
theorem portRead_eq (n : BitVec 8) (s : State) :
    portRead n s = { s with reply := (portRead n s).reply, free := s.free + 1 } := rfl

/-! ## Whole decodes -/

theorem decodeFrame_busy {f : Byte} {c : BitVec 8} {b : Byte} {q : Nat → Option Int} {s : State} (h : s.busy = true) :
    decodeFrame f c b q s = s := by simp [decodeFrame, h]

theorem decodeFrame_short {f : Byte} {c : BitVec 8} {b : Byte} {q : Nat → Option Int} {s : State} (h : s.busy = false)
    (hl : s.len.toNat < leastLength f) : decodeFrame f c b q s = failedDecode f s := by simp [decodeFrame, h, hl]

theorem decodeFrame_data {f : Byte} {c : BitVec 8} {b : Byte} {q : Nat → Option Int} {s : State} (h : s.busy = false)
    (hl : leastLength f ≤ s.len.toNat) : decodeFrame f c b q s = finishedDecode f c b q s := by
  simp [decodeFrame, h, Nat.not_lt.mpr hl]

theorem storeResults_some {q : Nat → Option Int} {r : Vector Word 39} {n : Nat} (hn : n < 39) {v : Int} (h : q n = some v) :
    (storeResults q r)[n] = BitVec.ofInt 32 v := by simp [storeResults, h]

theorem storeResults_none {q : Nat → Option Int} {r : Vector Word 39} {n : Nat} (hn : n < 39) (h : q n = none) :
    (storeResults q r)[n] = r[n] := by simp [storeResults, h]

/-! ## The weighter -/

theorem weightedWord_a {m : Int} {r : Vector Word 39} {k : Nat} (hk : k ≤ 8) :
    weightedWord m r ⟨4 + k, by omega⟩ = r[30 + k] + BitVec.ofInt 32 (m * a10 k) := by
  have h : 4 ≤ 4 + k ∧ 4 + k ≤ 12 := by omega
  have e : 4 + k + 26 = 30 + k := by omega
  simp only [weightedWord, dif_pos h, Nat.add_sub_cancel_left, e]

theorem weightedWord_c {m : Int} {r : Vector Word 39} {k : Nat} (hk : k ≤ 8) :
    weightedWord m r ⟨17 + k, by omega⟩ = r[30 + k] + BitVec.ofInt 32 (m * c10 k) := by
  have h' : ¬(4 ≤ 17 + k ∧ 17 + k ≤ 12) := by omega
  have h : 17 ≤ 17 + k ∧ 17 + k ≤ 25 := by omega
  have e : 17 + k + 13 = 30 + k := by omega
  simp only [weightedWord, dif_neg h', dif_pos h, Nat.add_sub_cancel_left, e]

theorem weightedWord_other {m : Int} {r : Vector Word 39} {n : Fin 39} (h : ¬(4 ≤ n.val ∧ n.val ≤ 12))
    (h' : ¬(17 ≤ n.val ∧ n.val ≤ 25)) : weightedWord m r n = r[n.val] := by
  simp only [weightedWord, dif_neg h, dif_neg h']

/-! ## The turns -/

/-- What an enabled sequencer turn does: a stop at the fetch or the decode, or the decoded instruction. -/
theorem sequencerTurn_enabled {s : State} (h : s.sequencerEnabled = true) {w : Byte} {i : Instr}
    (hw : s.fetch = some w) (hi : decodeUop w = .instr i) : sequencerTurn s = exec i s := by
  simp [sequencerTurn, h, hw, hi]

theorem sequencerTurn_disabled {s : State} (h : s.sequencerEnabled = false) : sequencerTurn s = .next s := by
  simp [sequencerTurn, h]

/-- If a sequencer turn answers a next state, either nothing was enabled and nothing changed, or the fetched word's instruction
ran. -/
theorem sequencerTurn_next {s t : State} (h : sequencerTurn s = .next t) :
    (s.sequencerEnabled = false ∧ t = s)
      ∨ (s.sequencerEnabled = true ∧ ∃ w i, s.fetch = some w ∧ decodeUop w = .instr i ∧ exec i s = .next t) := by
  unfold sequencerTurn at h
  split at h
  · rename_i enabled
    refine .inr ⟨enabled, ?_⟩
    split at h
    · cases h
    · rename_i w hw
      split at h
      · rename_i i hi
        exact ⟨w, i, hw, hi, h⟩
      · cases h
  · rename_i disabled
    cases h
    exact .inl ⟨by simpa using disabled, rfl⟩

/-- What the read of `STATUS` leaves that a poll of `WAIT` makes (R78). -/
theorem portRead_status {s : State} (h : s.resetIn = false) :
    portRead regSTATUS s = { s with reply := .value (s.statusWord.setWidth 32), free := s.free + 1 } := by
  have reply : (portRead regSTATUS s).reply = .value (s.statusWord.setWidth 32) := portRead_reply h
  rw [portRead_eq, reply]

theorem statusWord_shows_done (s : State) : replyShowsDone (.value (s.statusWord.setWidth 32)) = s.done := by
  simp only [replyShowsDone, State.statusWord]
  cases s.busy <;> cases s.done <;> cases s.err <;> cases s.warn <;> decide

/-- One poll of `WAIT` outside reset: over where `DONE` is 1, else the sequencer's turn with the line still pending. -/
theorem waitTurn_eq {s : State} (rest : List HostOp) (h : s.resetIn = false) :
    waitTurn rest s =
      if s.done then .next { s with host := rest, reply := .value (s.statusWord.setWidth 32), free := s.free + 1 }
      else sequencerTurn { s with reply := .value (s.statusWord.setWidth 32), free := s.free + 1 } := by
  unfold waitTurn
  rw [portRead_status h, statusWord_shows_done]

/-- Everything one step can do, by the host's oldest pending action. -/
theorem step_next {s t : State} (h : step s = .next t) :
    (s.host = [] ∧ sequencerTurn s = .next t)
      ∨ (∃ rest, s.host = .pause :: rest ∧ sequencerTurn { s with host := rest } = .next t)
      ∨ (∃ n v rest, s.host = .write n v :: rest ∧ t = portWrite n v { s with host := rest })
      ∨ (∃ n rest, s.host = .read n :: rest ∧ t = portRead n { s with host := rest })
      ∨ (∃ rest, s.host = .command :: rest ∧ s.resetIn = true ∧ t = { s with host := rest })
      ∨ (∃ rest, s.host = .command :: rest ∧ s.resetIn = false
          ∧ exec (decodeCommand s.fmt) { s with host := rest } = .next t)
      ∨ (∃ rest, s.host = .wait :: rest ∧ t = { portRead regSTATUS s with host := rest })
      ∨ (∃ rest, s.host = .wait :: rest ∧ sequencerTurn (portRead regSTATUS s) = .next t)
      ∨ (∃ rest, s.host = .reset true :: rest ∧ t = assertReset { s with host := rest })
      ∨ (∃ rest, s.host = .reset false :: rest ∧ t = releaseReset { s with host := rest }) := by
  unfold step turn at h
  split at h
  · exact .inl ⟨by assumption, h⟩
  · exact .inr (.inl ⟨_, by assumption, h⟩)
  · cases h; exact .inr (.inr (.inl ⟨_, _, _, by assumption, rfl⟩))
  · cases h; exact .inr (.inr (.inr (.inl ⟨_, _, by assumption, rfl⟩)))
  · unfold commandTurn at h
    split at h
    · cases h; exact .inr (.inr (.inr (.inr (.inl ⟨_, by assumption, by assumption, rfl⟩))))
    · rename_i off
      exact .inr (.inr (.inr (.inr (.inr (.inl ⟨_, by assumption, by simpa using off, h⟩)))))
  · unfold waitTurn at h
    split at h
    · cases h; exact .inr (.inr (.inr (.inr (.inr (.inr (.inl ⟨_, by assumption, rfl⟩))))))
    · exact .inr (.inr (.inr (.inr (.inr (.inr (.inr (.inl ⟨_, by assumption, h⟩)))))))
  · cases h; exact .inr (.inr (.inr (.inr (.inr (.inr (.inr (.inr (.inl ⟨_, by assumption, rfl⟩))))))))
  · cases h; exact .inr (.inr (.inr (.inr (.inr (.inr (.inr (.inr (.inr ⟨_, by assumption, rfl⟩))))))))

end Sys2Proof.Machine
end

