-- ==== Sys2Proof/Laws/PerInstr.lean ====
section
/-! SUPPORT. Per-instruction families (LAWS.json): the encoding of every instruction fits its row of spec/opcode_table.json. -/

namespace Sys2Proof.Laws

/-- The mask of an instruction's row in spec/opcode_table.json. -/
def rowMask : Instr → Byte
  | .dec22 => 0xFF#8
  | .dec21 => 0xFF#8
  | .dec10 => 0xFF#8
  | .decnop _ => 0x00#8
  | .rds => 0xFF#8
  | .rdb _ => 0xC0#8
  | .rd12 _ => 0xC0#8
  | .wgt => 0xFF#8
  | .endOp => 0xFF#8

/-- The match of an instruction's row in spec/opcode_table.json. -/
def rowMatch : Instr → Byte
  | .dec22 => 0x16#8
  | .dec21 => 0x15#8
  | .dec10 => 0x0A#8
  | .decnop _ => 0x00#8
  | .rds => 0x00#8
  | .rdb _ => 0x40#8
  | .rd12 _ => 0x80#8
  | .wgt => 0xC0#8
  | .endOp => 0xC1#8

/-- The encoding of the instruction fits its row's mask and match. -/
def FitsRow.Statement (i : Instr) : Prop := encode i &&& rowMask i = rowMatch i

theorem FitsRow.dec22 : FitsRow.Statement .dec22 := rfl
theorem FitsRow.dec21 : FitsRow.Statement .dec21 := rfl
theorem FitsRow.dec10 : FitsRow.Statement .dec10 := rfl
theorem FitsRow.decnop (f : Byte) : FitsRow.Statement (.decnop f) := by simp [FitsRow.Statement, rowMask, rowMatch]
theorem FitsRow.rds : FitsRow.Statement .rds := rfl
theorem FitsRow.rdb (d : BitVec 6) : FitsRow.Statement (.rdb d) := by
  revert d; unfold FitsRow.Statement; decide
theorem FitsRow.rd12 (d : BitVec 6) : FitsRow.Statement (.rd12 d) := by
  revert d; unfold FitsRow.Statement; decide
theorem FitsRow.wgt : FitsRow.Statement .wgt := rfl
theorem FitsRow.endOp : FitsRow.Statement .endOp := rfl

end Sys2Proof.Laws
end

