-- ==== Sys2Proof/Laws/Program.lean ====
section
/-! SUPPORT. What stands at each address of `LROM`, and what the sequencer therefore runs inside a program. -/

namespace Sys2Proof.Machine

/-- The three programs end to end, as instructions. -/
def program (o : CurveOrder) : List Instr := programL22 ++ programL21 ++ programL10 o

theorem rom_decodes (o : CurveOrder) : (lromImage o).map decodeUop = (program o).map Decoded.instr := by
  cases o <;> decide +kernel

/-- Which kind of micro-operation stands at which address (R113, R115 to R117). -/
def shapeOk (i : Instr) (a : Nat) : Bool :=
  match i with
  | .rds => decide (a = 0)
  | .rdb d => decide (1 ≤ a) && decide (a ≤ 18) && decide (d.toNat < 39)
  | .rd12 d => ((decide (0x15 ≤ a) && decide (a ≤ 0x20)) || (decide (0x23 ≤ a) && decide (a ≤ 0x43))) && decide (d.toNat < 39)
  | .wgt => decide (a = 0x13) || decide (a = 0x21)
  | .endOp => decide (a = 0x14) || decide (a = 0x22) || decide (a = 0x44)
  | .dec22 => false
  | .dec21 => false
  | .dec10 => false
  | .decnop _ => false

theorem program_length (o : CurveOrder) : (program o).length = 69 := by cases o <;> decide +kernel

theorem program_shape (o : CurveOrder) : ∀ a : Fin 69, ((program o)[a.val]?.map fun i => shapeOk i a.val) = some true := by
  cases o <;> decide +kernel

/-- The micro-operation at an address of the ROM. -/
theorem program_at (o : CurveOrder) {a : Nat} (h : a ≤ 0x44) : ∃ i, (program o)[a]? = some i ∧ shapeOk i a = true := by
  have shape := program_shape o ⟨a, by omega⟩
  cases at_a : (program o)[a]? with
  | none => simp [at_a] at shape
  | some i => exact ⟨i, rfl, by simpa [at_a] using shape⟩

/-- The fetch of a state with a proper ROM gives a word that decodes to the program's micro-operation. -/
theorem fetch_program {s : State} (rom : s.lrom = lromImage s.order) {i : Instr}
    (h : (program s.order)[s.seq.toNat]? = some i) : ∃ w, s.fetch = some w ∧ decodeUop w = .instr i := by
  have decodes := congrArg (fun l => l[s.seq.toNat]?) (rom_decodes s.order)
  simp only [List.getElem?_map, h, Option.map_some] at decodes
  unfold State.fetch
  rw [rom]
  cases at_seq : (lromImage s.order)[s.seq.toNat]? with
  | none => simp [at_seq] at decodes
  | some w => exact ⟨w, rfl, by simpa [at_seq] using decodes⟩

/-- An enabled sequencer turn with a proper ROM runs the program's micro-operation. -/
theorem sequencerTurn_program {s : State} (rom : s.lrom = lromImage s.order) (on : s.sequencerEnabled = true) {i : Instr}
    (h : (program s.order)[s.seq.toNat]? = some i) : sequencerTurn s = exec i s := by
  obtain ⟨w, hw, hi⟩ := fetch_program rom h
  exact sequencerTurn_enabled on hw hi

/-- With nothing pending a step is the sequencer's turn. -/
theorem step_undisturbed {s : State} (h : s.host = []) : step s = sequencerTurn s := by
  simp [step, turn, h]

end Sys2Proof.Machine
end

