-- ==== Sys2Proof/Laws/Run.lean ====
section
/-! SUPPORT. Runs of several steps, one step at a time. -/

namespace Sys2Proof.Machine

theorem run_zero (s : State) : run 0 s = .next s := Host.Core.run.eq_1 Sys2Proof.core s

theorem run_succ {s t : State} (k : Nat) (h : step s = .next t) : run (k + 1) s = run k t := by
  have first : Sys2Proof.core.step s = .next t := h
  have unfolded := Host.Core.run.eq_2 Sys2Proof.core s k
  rw [first] at unfolded
  exact unfolded

/-- With nothing pending and the block idle, no step changes anything. -/
theorem run_idle {s : State} (h : s.host = []) (off : s.busy = false) (k : Nat) : run k s = .next s := by
  induction k with
  | zero => exact run_zero s
  | succ k ih =>
    have still : step s = .next s := by
      simp [step, turn, h, sequencerTurn, State.sequencerEnabled, off]
    rw [run_succ k still, ih]

end Sys2Proof.Machine
end

