-- ==== Sys2Proof/Laws/Sequencer.lean ====
section
/-! SUPPORT. Everything one enabled sequencer turn inside a program can do, said once. -/

namespace Sys2Proof.Machine

/-- The read that stands at `SEQ` in the program of `FMT` lacks a byte of the frame (R118, R171). -/
def State.lacksByte (s : State) : Prop :=
  (s.fmt = 22#8 ∧ s.seq.toNat ≤ 0x12 ∧ s.len.toNat < s.seq.toNat + 1)
    ∨ (s.fmt = 21#8 ∧ s.seq.toNat ≤ 0x20 ∧ s.len.toNat < 3 * (s.seq.toNat - 0x15) / 2 + 2)
    ∨ (s.fmt = 10#8 ∧ s.seq.toNat ≤ 0x43 ∧ s.len.toNat < 3 * (s.seq.toNat - 0x23) / 2 + 2)

/-- A micro-operation other than `END` completed: `SEQ` one further, still inside the program, and at most `R[]` and `SCALE`
written besides. -/
structure Progress (s t : State) : Prop where
  frame : t = { s with r := t.r, scale := t.scale, cur := t.cur, seq := t.seq }
  seq : t.seq.toNat = s.seq.toNat + 1
  cur : s.cur.toNat ≤ t.cur.toNat
  point : programPoint s.fmt t.seq.toNat t.cur.toNat

theorem seq_after {s : State} (h : s.seq.toNat ≤ 0x44) : (s.seq + 1#7).toNat = s.seq.toNat + 1 := by
  rw [BitVec.toNat_add]; simp only [BitVec.toNat_ofNat]; omega

theorem exec_rds_fits {s : State} (h : s.cur.toNat / 2 < s.len.toNat) :
    exec .rds s = .next ({ s with scale := Memory.read s.fb (s.cur.toNat / 2) }.advance 2) := by
  rw [exec, execRds, readByteField_fits ((byteFits_iff _ _).mpr h)]; rfl

theorem exec_rds_short {s : State} (h : s.len.toNat ≤ s.cur.toNat / 2) : exec .rds s = .next (bufferTooShort s) := by
  rw [exec, execRds, readByteField_short ((byteFits_false _ _).mpr h)]

theorem exec_rdb_fits {s : State} {d : BitVec 6} (hd : d.toNat < 39) (h : s.cur.toNat / 2 < s.len.toNat) :
    exec (.rdb d) s =
      .next ((s.setResult ⟨d.toNat, hd⟩ (scaledWord s.scale (Memory.read s.fb (s.cur.toNat / 2)))).advance 2) := by
  rw [exec, execRdb, withDestination_ok hd, readByteField_fits ((byteFits_iff _ _).mpr h)]; rfl

theorem exec_rdb_short {s : State} {d : BitVec 6} (hd : d.toNat < 39) (h : s.len.toNat ≤ s.cur.toNat / 2) :
    exec (.rdb d) s = .next (bufferTooShort s) := by
  rw [exec, execRdb, withDestination_ok hd, readByteField_short ((byteFits_false _ _).mpr h)]

theorem exec_rd12_fits {s : State} {d : BitVec 6} (hd : d.toNat < 39) (h : s.cur.toNat / 2 + 2 ≤ s.len.toNat) :
    exec (.rd12 d) s = .next ((s.setResult ⟨d.toNat, hd⟩ (sext12 (extract12 s.fb s.cur.toNat))).advance 3) := by
  rw [exec, execRd12, withDestination_ok hd, readPackedField_fits ((fieldFits_iff _ _).mpr h)]

theorem exec_rd12_short {s : State} {d : BitVec 6} (hd : d.toNat < 39) (h : s.len.toNat < s.cur.toNat / 2 + 2) :
    exec (.rd12 d) s = .next (bufferTooShort s) := by
  rw [exec, execRd12, withDestination_ok hd, readPackedField_short ((fieldFits_false _ _).mpr h)]

theorem exec_wgt_next (s : State) :
    exec .wgt s = .next ((s.setResults (Vector.ofFn (weightedWord (weightFactor s.fmt) s.r))).advance 0) := rfl

theorem exec_end_next (s : State) : exec .endOp s = .next (publish s.fmt s) := rfl

theorem progress_wgt {s : State} (v : Vector Word 39) (next : (s.seq + 1#7).toNat = s.seq.toNat + 1)
    (point : programPoint s.fmt (s.seq.toNat + 1) s.cur.toNat) : Progress s ((s.setResults v).advance 0) := by
  have cur : ((s.setResults v).advance 0).cur = s.cur := by simp
  exact ⟨rfl, next, by rw [cur], by rw [cur, advance_seq, setResults_seq, next]; exact point⟩

/-- The sequencer's turn inside a program: `BufferTooShort` where the read lacks a byte, else progress, or at the program's last
word the publication of the results. -/
theorem sequencerTurn_cases {s : State} (rom : s.lrom = lromImage s.order) (on : s.sequencerEnabled = true)
    (point : programPoint s.fmt s.seq.toNat s.cur.toNat) :
    (s.lacksByte ∧ sequencerTurn s = .next (bufferTooShort s))
      ∨ (¬s.lacksByte ∧ ¬s.seq = lend s.fmt ∧ ∃ t, sequencerTurn s = .next t ∧ Progress s t)
      ∨ (¬s.lacksByte ∧ s.seq = lend s.fmt ∧ sequencerTurn s = .next (publish s.fmt s)) := by
  have bound : s.seq.toNat ≤ 0x44 := by rcases point with h | h | h <;> omega
  obtain ⟨i, at_seq, shape⟩ := program_at s.order bound
  have run := sequencerTurn_program rom on at_seq
  have next := seq_after bound
  have ends : s.seq = lend s.fmt ↔ s.seq.toNat = (lend s.fmt).toNat := BitVec.toNat_inj.symm
  have at_end : (lend s.fmt).toNat = if s.fmt = 22#8 then 0x14 else if s.fmt = 21#8 then 0x22 else if s.fmt = 10#8 then 0x44
      else 0 := by unfold lend; split_ifs <;> rfl
  rw [run, ends, at_end]
  have a21 : (21#8 : Byte) ≠ 22#8 := by decide
  have a10 : (10#8 : Byte) ≠ 22#8 := by decide
  have b10 : (10#8 : Byte) ≠ 21#8 := by decide
  unfold State.lacksByte
  cases i with
  | rds =>
    simp only [shapeOk, decide_eq_true_eq] at shape
    rcases point with ⟨f, h⟩ | ⟨f, h⟩ | ⟨f, h⟩ <;>
      simp only [f, a21, a10, b10, a21.symm, a10.symm, b10.symm,
        eq_self, false_and, true_and, or_false, false_or, reduceIte] <;> try omega
    by_cases fits : s.cur.toNat / 2 < s.len.toNat
    · refine .inr (.inl ⟨by omega, by omega, _, exec_rds_fits fits, rfl, next, ?_, ?_⟩)
      · simp only [advance_cur, cur_after_byte ((byteFits_iff _ _).mpr fits)]; omega
      · simp only [advance_cur, advance_seq, cur_after_byte ((byteFits_iff _ _).mpr fits), next]
        exact .inl ⟨f, by omega, by omega⟩
    · exact .inl ⟨by omega, exec_rds_short (by omega)⟩
  | rdb d =>
    simp only [shapeOk, Bool.and_eq_true, decide_eq_true_eq] at shape
    rcases point with ⟨f, h⟩ | ⟨f, h⟩ | ⟨f, h⟩ <;>
      simp only [f, a21, a10, b10, a21.symm, a10.symm, b10.symm,
        eq_self, false_and, true_and, or_false, false_or, reduceIte] <;> try omega
    by_cases fits : s.cur.toNat / 2 < s.len.toNat
    · refine .inr (.inl ⟨by omega, by omega, _, exec_rdb_fits shape.2 fits, rfl, next, ?_, ?_⟩)
      · simp only [advance_cur, setResult_cur, cur_after_byte ((byteFits_iff _ _).mpr fits)]; omega
      · simp only [advance_cur, advance_seq, setResult_cur, setResult_seq, cur_after_byte ((byteFits_iff _ _).mpr fits), next]
        exact .inl ⟨f, by omega, by omega⟩
    · exact .inl ⟨by omega, exec_rdb_short shape.2 (by omega)⟩
  | rd12 d =>
    simp only [shapeOk, Bool.and_eq_true, Bool.or_eq_true, decide_eq_true_eq] at shape
    rcases point with ⟨f, h⟩ | ⟨f, h⟩ | ⟨f, h⟩ <;>
      simp only [f, a21, a10, b10, a21.symm, a10.symm, b10.symm,
        eq_self, false_and, true_and, or_false, false_or, reduceIte] <;> try omega
    all_goals
      by_cases fits : s.cur.toNat / 2 + 2 ≤ s.len.toNat
      · refine .inr (.inl ⟨by omega, by omega, _, exec_rd12_fits shape.2 fits, rfl, next, ?_, ?_⟩)
        · simp only [advance_cur, setResult_cur, cur_after_field ((fieldFits_iff _ _).mpr fits)]; omega
        · simp only [advance_cur, advance_seq, setResult_cur, setResult_seq, cur_after_field ((fieldFits_iff _ _).mpr fits), next]
          first
            | exact .inr (.inl ⟨f, by omega, by omega, by omega⟩)
            | exact .inr (.inr ⟨f, by omega, by omega, by omega⟩)
      · exact .inl ⟨by omega, exec_rd12_short shape.2 (by omega)⟩
  | wgt =>
    simp only [shapeOk, Bool.or_eq_true, decide_eq_true_eq] at shape
    rcases point with ⟨f, h⟩ | ⟨f, h⟩ | ⟨f, h⟩ <;>
      simp only [f, a21, a10, b10, a21.symm, a10.symm, b10.symm,
        eq_self, false_and, true_and, or_false, false_or, reduceIte]
      <;> try omega
    · refine .inr (.inl ⟨by omega, by omega, _, exec_wgt_next s, progress_wgt _ next ?_⟩)
      exact .inl ⟨f, by omega, by omega⟩
    · refine .inr (.inl ⟨by omega, by omega, _, exec_wgt_next s, progress_wgt _ next ?_⟩)
      exact .inr (.inl ⟨f, by omega, by omega, by omega⟩)
  | endOp =>
    simp only [shapeOk, Bool.or_eq_true, decide_eq_true_eq] at shape
    have ended := exec_end_next s
    rcases point with ⟨f, h⟩ | ⟨f, h⟩ | ⟨f, h⟩ <;> rw [f] at ended <;>
      simp only [f, a21, a10, b10, a21.symm, a10.symm, b10.symm, eq_self, false_and, true_and, or_false, false_or, reduceIte] <;>
      exact .inr (.inr ⟨by omega, by omega, ended⟩)
  | dec22 => cases shape
  | dec21 => cases shape
  | dec10 => cases shape
  | decnop f => cases shape

end Sys2Proof.Machine
end

