-- ==== Sys2Proof/Laws/Values.lean ====
section
/-! SUPPORT. The words `word`, `q` and `value?` of the statements, in terms of the registers and the presence bits. -/

namespace Sys2Proof.Machine

theorem word_eq_getResult (s : State) {n : Nat} (h : n < 39) : s.word n = s.getResult ⟨n, h⟩ := by
  simp [State.word, h, State.getResult]

/-- A present register denotes its integer over the unit (R7). -/
theorem value?_present {s : State} {n : Fin 39} (h : s.present.getLsbD n.val = true) :
    s.value? n = some ((s.q n.val : ℚ) / (s.unit.toNat : ℚ)) := by
  rw [State.value?, result?_present h, State.q, word_eq_getResult s n.isLt]
  rfl

/-- An absent register denotes nothing (R14). -/
theorem value?_absent {s : State} {n : Fin 39} (h : s.present.getLsbD n.val = false) : s.value? n = none := by
  rw [State.value?, result?_absent h]
  rfl

end Sys2Proof.Machine
end

