-- ==== Sys2Proof/Tests/Slice0.lean ====
section
/-! SUPPORT. The model's own tests: expected values from spec/95_test_vectors.md or worked by hand from the rules, and for every
statement with hypotheses a state and operands that meet them. -/

namespace Sys2Proof.Tests

open Sys2Proof Sys2Proof.Machine

set_option Elab.async false

/-! ## Helpers -/

/-- A next state that passes the check. -/
def nextIs (o : Host.Outcome State Fault Refusal) (p : State → Bool) : Bool :=
  match o with
  | .next t => p t
  | .fault _ => false
  | .refused _ => false

/-- An idle state after reset with a frame, its length and a format. -/
def loaded (bytes : List Byte) (len : BitVec 7) (fmt : Byte) : State :=
  { State.reset with fb := bytes.zipIdx.map (fun p => (p.2, p.1)), len := len, fmt := fmt }

/-- A state in the middle of a decode. -/
def running (bytes : List Byte) (len : BitVec 7) (fmt : Byte) (seq : BitVec 7) (cur : BitVec 8) : State :=
  { loaded bytes len fmt with busy := true, seq := seq, cur := cur }

/-- The integers of consecutive result registers. -/
def qs (s : State) (first count : Nat) : List Int := (List.range count).map fun k => s.q (first + k)

/-- The frame of vector V1. -/
def frameV1 : List Byte :=
  [0xFF#8, 0x0A#8, 0x14#8, 0x1E#8, 0x28#8, 0x32#8, 0x3C#8, 0x46#8, 0x50#8, 0x5A#8, 0x01#8, 0x02#8, 0x03#8, 0x04#8, 0x05#8,
    0x06#8, 0x07#8, 0x08#8, 0x09#8]

/-- The frame of vector V9. -/
def frameV9 : List Byte := [0x12#8, 0x34#8, 0x56#8, 0xF8#8, 0x3A#8, 0xBC#8]

/-- The frame of vector V10. -/
def frameV10 : List Byte :=
  [0x16#8, 0x02#8, 0xCF#8, 0x1E#8, 0x6F#8, 0x83#8, 0x0C#8, 0x91#8, 0x2C#8, 0x1A#8, 0x11#8, 0xC2#8, 0x1D#8, 0x91#8, 0xBC#8,
    0x18#8, 0x48#8, 0x00#8]

/-- A format-10 frame of 50 bytes, byte a holding 7·a + 3. -/
def frame50 : List Byte := (List.range 50).map fun a => BitVec.ofNat 8 (7 * a + 3)

/-- A state with nine Z bands. -/
def withBands (z : List Int) (s : State) : State :=
  { s with r := Vector.ofFn fun n => if 30 ≤ n.val then BitVec.ofInt 32 (z.getD (n.val - 30) 0) else s.r[n.val] }

/-! ## Well-formedness: each check refuses an ill-formed term (R75, R71) -/

theorem test_wellFormed_rdb : (Instr.rdb 39#6).wellFormed = false ∧ (Instr.rdb 38#6).wellFormed = true := by decide
theorem test_wellFormed_rd12 : (Instr.rd12 63#6).wellFormed = false ∧ (Instr.rd12 0#6).wellFormed = true := by decide
theorem test_wellFormed_decnop : (Instr.decnop 22#8).wellFormed = false ∧ (Instr.decnop 21#8).wellFormed = false
    ∧ (Instr.decnop 10#8).wellFormed = false ∧ (Instr.decnop 99#8).wellFormed = true := by decide

/-! ## Decoding: words written out bit by bit from R71, R73 and R74 -/

theorem test_decode_dec22 : decode .command 0b00010110#8 = .instr .dec22 := by decide
theorem test_decode_dec21 : decode .command 0b00010101#8 = .instr .dec21 := by decide
theorem test_decode_dec10 : decode .command 0b00001010#8 = .instr .dec10 := by decide
theorem test_decode_decnop : decode .command 0b01100011#8 = .instr (.decnop 99#8) := by decide
theorem test_decode_rds : decode .micro 0b00000000#8 = .instr .rds := by decide
/-- `RDB LZ_MIN`: op 01, dest 26 = 011010. -/
theorem test_decode_rdb : decode .micro 0b01011010#8 = .instr (.rdb (destination .lz .min)) := by decide
/-- `RD12 LC_AVG`: op 10, dest 15 = 001111. -/
theorem test_decode_rd12 : decode .micro 0b10001111#8 = .instr (.rd12 (destination .lc .avg)) := by decide
theorem test_decode_wgt : decode .micro 0b11000000#8 = .instr .wgt := by decide
theorem test_decode_end : decode .micro 0b11000001#8 = .instr .endOp := by decide
theorem test_decode_reserved : decode .micro 0b00000001#8 = .reserved .scaleDestination
    ∧ decode .micro 0b01100111#8 = .reserved .resultDestination ∧ decode .micro 0b10111111#8 = .reserved .resultDestination
    ∧ decode .micro 0b11000010#8 = .reserved .subOpcode := by decide

/-! ## One step of each instruction -/

/-- V8a. -/
theorem test_rds : nextIs (exec .rds (running [0x80#8, 0x64#8] 19#7 22#8 0#7 0#8)) (fun t =>
    t.scale == 128#8 && t.cur == 2#8 && t.seq == 1#7) = true := by decide +kernel
/-- V8f. -/
theorem test_rds_short : nextIs (exec .rds (running [] 0#7 22#8 0#7 0#8)) (fun t =>
    t.statusWord == 6#4 && t.cur == 0#8 && t.seq == 0#7 && t.scale == 0#8) = true := by decide +kernel
/-- V8d: the largest product. -/
theorem test_rdb : nextIs (exec (.rdb 38#6) { running (frameV1.take 18 ++ [0xFF#8]) 19#7 22#8 0x12#7 36#8 with scale := 255#8 })
    (fun t => t.word 38 == 0x0001FC02#32 && t.cur == 38#8) = true := by decide +kernel
/-- V8g: one byte is missing. -/
theorem test_rdb_short : nextIs (exec (.rdb 38#6) { running frameV1 18#7 22#8 0x12#7 36#8 with scale := 255#8 })
    (fun t => t.statusWord == 6#4 && t.word 38 == 0#32 && t.cur == 36#8) = true := by decide +kernel
/-- V9e, even cursor. -/
theorem test_rd12_even : nextIs (exec (.rd12 26#6) (running frameV9 6#7 21#8 0x15#7 6#8)) (fun t =>
    t.word 26 == 0xFFFFFF83#32 && t.cur == 9#8) = true := by decide +kernel
/-- V9b, odd cursor. -/
theorem test_rd12_odd : nextIs (exec (.rd12 26#6) (running frameV9 6#7 21#8 0x15#7 1#8)) (fun t =>
    t.word 26 == 0x00000234#32 && t.cur == 4#8) = true := by decide +kernel
/-- V10. -/
theorem test_wgt_tenths :
    nextIs (exec .wgt (withBands [-125, 201, 300, 417, 450, 473, 444, 388, -2048] (running [] 18#7 21#8 0x21#7 36#8))) (fun t =>
      qs t 4 9 == [-519, -61, 139, 331, 418, 473, 456, 398, -2059]
        && qs t 17 9 == [-155, 193, 298, 417, 450, 473, 446, 391, -2078] && t.seq == 0x22#7) = true := by decide +kernel
/-- V12w. -/
theorem test_wgt_scaled :
    nextIs (exec .wgt (withBands [0, 256, 512, 16384, 32768, 49152, 65024, 65280, 9472] (running [] 19#7 22#8 0x13#7 38#8)))
      (fun t => qs t 4 9 == [-20094, -13106, -7699, 11998, 31136, 49152, 65636, 65790, 8911]
        && qs t 17 9 == [-1530, -152, 410, 16384, 32768, 49152, 65126, 65433, 7942]) = true := by decide +kernel
/-- V13a. -/
theorem test_end_22 : nextIs (exec .endOp (running frameV1 19#7 22#8 0x14#7 38#8)) (fun t =>
    t.statusWord == 2#4 && t.present == 0x7FDFFEFFF7#39 && t.unit == 510#10 && t.irqDone && t.seq == 0x14#7) = true := by
  decide +kernel
/-- V13c. -/
theorem test_end_10 : nextIs (exec .endOp (running frame50 50#7 10#8 0x44#7 99#8)) (fun t =>
    t.present == 0x7FF3FF9FFC#39 && t.presentLo == 0xF3FF9FFC#32 && t.presentHi == 0x7F#32 && t.unit == 10#10) = true := by
  decide +kernel
/-- V1. -/
theorem test_dec22 : nextIs (exec .dec22 (loaded frameV1 19#7 22#8)) (fun t =>
    t.statusWord == 2#4 && qs t 4 9 == [-19584, -12342, -6681, -2346, 918, 3060, 4182, 4590, 4029]
      && qs t 13 3 == [20400, 25500, 30600]) = true := by decide +kernel
/-- V16c: 18 bytes. -/
theorem test_dec22_short : nextIs (exec .dec22 (loaded frameV1 18#7 22#8)) (fun t =>
    t.statusWord == 6#4 && t.present == 0#39) = true := by decide +kernel
/-- V10: Z spectrum and the derived A spectrum. -/
theorem test_dec21 : nextIs (exec .dec21 (loaded frameV10 18#7 21#8)) (fun t =>
    qs t 30 9 == [-125, 201, 300, 417, 450, 473, 444, 388, -2048]
      && qs t 4 9 == [-519, -61, 139, 331, 418, 473, 456, 398, -2059]) = true := by decide +kernel
/-- V17d: 17 bytes. -/
theorem test_dec21_short : nextIs (exec .dec21 (loaded frameV10 17#7 21#8)) (fun t => t.statusWord == 6#4) = true := by
  decide +kernel
/-- Fields 0 and 32 of the frame by hand: nibbles 0, 3, 0 at cursor 0 and 5, 3, 5 at cursor 96. -/
theorem test_dec10 : nextIs (exec .dec10 (loaded frame50 50#7 10#8)) (fun t =>
    t.q 30 == 0x030 && t.q 15 == 0x535 && t.present == 0x7FF3FF9FFC#39) = true := by decide +kernel
/-- V18e: 49 bytes. -/
theorem test_dec10_short : nextIs (exec .dec10 (loaded frame50 49#7 10#8)) (fun t => t.statusWord == 6#4) = true := by
  decide +kernel
/-- V6. -/
theorem test_decnop : nextIs (exec (.decnop 99#8) (loaded [1#8, 2#8, 3#8] 3#7 99#8)) (fun t =>
    t.statusWord == 0xA#4 && t.present == 0#39 && t.unit == 0#10) = true := by decide +kernel
/-- V25. -/
theorem test_decnop_empty : nextIs (exec (.decnop 99#8) (loaded [] 0#7 99#8)) (fun t => t.statusWord == 0xA#4) = true := by
  decide +kernel

/-! ## The host's side -/

/-- V36: upper bits of `LEN` are ignored. -/
theorem test_write_len : nextIs (step { State.reset with host := [.write regLEN 0x93#32] }) (fun t => t.len == 0x13#7) = true := by
  decide +kernel
/-- V29: a bare `START` after reset. -/
theorem test_start_after_reset : nextIs (step { State.reset with host := [scriptStart] }) (fun t => t.statusWord == 0xA#4) = true := by
  decide +kernel
/-- V30: a peak register has no value after a format-22 decode. -/
theorem test_absent_peak : nextIs (step { publish 22#8 (running frameV1 19#7 22#8 0x14#7 38#8) with host := [.read 0xDD#8] })
    (fun t => t.reply == .noValue) = true := by decide +kernel
theorem test_fetch_word_micro : nextIs (step (State.reset.withFetchWord 8 0xC1)) (fun t => t.done && !t.busy) = true := by
  decide +kernel
theorem test_fetch_word_command : nextIs (step (State.reset.withFetchWord 8 0x16)) (fun t => t.statusWord == 6#4) = true := by
  decide +kernel

/-! ## States that meet the invariant -/

/-- Idle, with the frame of V1. -/
def idle22 : State := loaded frameV1 19#7 22#8
/-- Idle, one byte short. -/
def idle22short : State := loaded frameV1 18#7 22#8
def idle21 : State := loaded frameV10 18#7 21#8
def idle21short : State := loaded frameV10 17#7 21#8
def idle10 : State := loaded frame50 50#7 10#8
def idle10short : State := loaded frame50 49#7 10#8
def idle99 : State := loaded [1#8] 1#7 99#8
/-- At the last read of `L22`, its byte missing. -/
def lastRead22 : State := running frameV1 18#7 22#8 0x12#7 36#8
/-- At the first read of `L22`, its byte present. -/
def firstRead22 : State := running frameV1 19#7 22#8 0x00#7 0#8
def lastRead21 : State := running frameV10 17#7 21#8 0x20#7 33#8
def firstRead21 : State := running frameV10 18#7 21#8 0x15#7 0#8
def lastRead10 : State := running frame50 49#7 10#8 0x43#7 96#8
def firstRead10 : State := running frame50 50#7 10#8 0x23#7 0#8
/-- At `END` of `L22`. -/
def atEnd22 : State := running frameV1 19#7 22#8 0x14#7 38#8
/-- After a format-22 decode with data. -/
def finished22 : State := publish 22#8 atEnd22
/-- While `reset` is asserted. -/
def heldReset : State := assertReset idle22

/-- The invariant of an idle state that has decoded nothing. -/
theorem inv_loaded {bytes : List Byte} {len : BitVec 7} {fmt : Byte} (wf : Memory.wf (loaded bytes len fmt).fb = true) :
    Inv (loaded bytes len fmt) :=
  ⟨wf, rfl, nofun, fun _ => ⟨rfl, rfl, rfl, rfl⟩, nofun, nofun, nofun, nofun, Nat.zero_le _, Nat.zero_le _, nofun⟩

/-- The invariant of a running state inside its program. -/
theorem inv_running {bytes : List Byte} {len : BitVec 7} {fmt : Byte} {seq : BitVec 7} {cur : BitVec 8}
    (wf : Memory.wf (running bytes len fmt seq cur).fb = true) (point : programPoint fmt seq.toNat cur.toNat) :
    Inv (running bytes len fmt seq cur) :=
  ⟨wf, rfl, fun _ => rfl, fun _ => ⟨rfl, rfl, rfl, rfl⟩, nofun, nofun, nofun, fun _ => point,
    by show cur.toNat ≤ 99; rcases point with h | h | h <;> omega, by show seq.toNat ≤ 0x44; rcases point with h | h | h <;> omega,
    nofun⟩

theorem inv_idle22 : Inv idle22 := inv_loaded (by decide +kernel)
theorem inv_idle22short : Inv idle22short := inv_loaded (by decide +kernel)
theorem inv_idle21 : Inv idle21 := inv_loaded (by decide +kernel)
theorem inv_idle21short : Inv idle21short := inv_loaded (by decide +kernel)
theorem inv_idle10 : Inv idle10 := inv_loaded (by decide +kernel)
theorem inv_idle10short : Inv idle10short := inv_loaded (by decide +kernel)
theorem inv_idle99 : Inv idle99 := inv_loaded (by decide +kernel)
theorem inv_lastRead22 : Inv lastRead22 := inv_running (by decide +kernel) (by unfold programPoint; decide)
theorem inv_firstRead22 : Inv firstRead22 := inv_running (by decide +kernel) (by unfold programPoint; decide)
theorem inv_lastRead21 : Inv lastRead21 := inv_running (by decide +kernel) (by unfold programPoint; decide)
theorem inv_firstRead21 : Inv firstRead21 := inv_running (by decide +kernel) (by unfold programPoint; decide)
theorem inv_lastRead10 : Inv lastRead10 := inv_running (by decide +kernel) (by unfold programPoint; decide)
theorem inv_firstRead10 : Inv firstRead10 := inv_running (by decide +kernel) (by unfold programPoint; decide)
theorem inv_atEnd22 : Inv atEnd22 := inv_running (by decide +kernel) (by unfold programPoint; decide)
theorem inv_finished22 : Inv finished22 :=
  ⟨inv_atEnd22.memory, rfl, nofun, nofun, nofun, nofun, fun _ => ⟨22#8, rfl, rfl, rfl⟩, nofun, by decide, by decide, nofun⟩
theorem inv_heldReset : Inv heldReset :=
  ⟨inv_idle22.memory, rfl, nofun, fun _ => ⟨rfl, rfl, rfl, rfl⟩, nofun, nofun, nofun, nofun, by decide, by decide,
    fun _ => ⟨by decide, rfl, rfl, rfl, rfl, rfl, rfl⟩⟩

/-! ## Every statement's hypotheses are met: one theorem for each statement that has any -/

theorem witness_DecodeOfEncodeIsTheInstruction :
    (Instr.rdb 38#6).wellFormed = true ∧ (Instr.rd12 38#6).wellFormed = true ∧ (Instr.decnop 23#8).wellFormed = true := by decide

theorem witness_EncodeOfDecodeIsTheWord :
    decode .micro 0x66#8 = .instr (.rdb 38#6) ∧ decode .command 0x66#8 = .instr (.decnop 0x66#8) := by decide

theorem witness_CommandOpcodeMap : 23#8 ≠ 22#8 ∧ 23#8 ≠ 21#8 ∧ (23#8 : Byte) ≠ 10#8 := by decide

/-- A running state whose `LROM` was replaced by one reserved word, the least and the greatest of them, and a legal running state. -/
theorem witness_ReservedWordsAreRefusedAndNeverFetched :
    ({ firstRead22 with lrom := [0x01#8] }).undisturbed ∧ firstRead22.busy = true
      ∧ ({ firstRead22 with lrom := [0x01#8] }).lrom[firstRead22.seq.toNat]? = some 0x01#8
      ∧ decode .micro 0x01#8 = .reserved .scaleDestination ∧ decode .micro 0xFF#8 = .reserved .subOpcode
      ∧ 0x00#8 ∈ lromImage .zac ∧ 39 ≤ (39#6 : BitVec 6).toNat
      ∧ Inv lastRead10 ∧ lastRead10.busy = true :=
  ⟨⟨rfl, rfl⟩, rfl, rfl, by decide, by decide, by decide +kernel, by decide, inv_lastRead10, rfl⟩

theorem witness_FetchOutsideRomFaults :
    ({ firstRead22 with seq := 0x45#7 }).undisturbed ∧ firstRead22.busy = true
      ∧ ({ firstRead22 with seq := 0x45#7 }).lrom[(0x45#7 : BitVec 7).toNat]? = none :=
  ⟨⟨rfl, rfl⟩, rfl, by decide +kernel⟩

theorem witness_ExtractReadsThreeNibbles : 6 % 2 = 0 ∧ 7 % 2 = 1 := by decide

theorem witness_SignExtensionOfTwelveBits : 0x800#12 &&& 0x800#12 ≠ 0#12 ∧ 0x7FF#12 &&& 0x800#12 = 0#12 := by decide

theorem witness_PackedReadBound : (38#6 : BitVec 6).toNat ≤ 38 := by decide

/-- The byte present (scale 0 in a state after reset) and missing. -/
theorem witness_RdsReadsTheScaleByte :
    firstRead22.cur.toNat / 2 < firstRead22.len.toNat ∧ lastRead22.len.toNat ≤ lastRead22.cur.toNat / 2
      ∧ (38#6 : BitVec 6).toNat = 38 ∧ firstRead22.scale = 0#8 := by decide

theorem witness_RdbScalesAByte :
    (38#6 : BitVec 6).toNat = 38 ∧ firstRead22.cur.toNat / 2 < firstRead22.len.toNat
      ∧ lastRead22.len.toNat ≤ lastRead22.cur.toNat / 2 ∧ 0 ≠ 38 := by decide

theorem witness_Rd12ReadsASignedField :
    (0#6 : BitVec 6).toNat = 0 ∧ firstRead21.cur.toNat / 2 + 2 ≤ firstRead21.len.toNat
      ∧ lastRead21.len.toNat < lastRead21.cur.toNat / 2 + 2 ∧ 38 ≠ 0 := by decide

/-- n = −125 at the even cursor 6 of the frame of V9, and the byte read of V1. -/
theorem witness_FieldRoundTrips :
    (26#6 : BitVec 6).toNat = 26 ∧ (-2048 : Int) ≤ -125 ∧ (-125 : Int) ≤ 2047
      ∧ (running frameV9 6#7 21#8 0x15#7 6#8).cur.toNat / 2 + 2 ≤ (running frameV9 6#7 21#8 0x15#7 6#8).len.toNat
      ∧ (nibble (running frameV9 6#7 21#8 0x15#7 6#8).fb 6 : Int) = (-125) % 4096 / 256
      ∧ (nibble (running frameV9 6#7 21#8 0x15#7 6#8).fb 7 : Int) = (-125) % 4096 / 16 % 16
      ∧ (nibble (running frameV9 6#7 21#8 0x15#7 6#8).fb 8 : Int) = (-125) % 4096 % 16
      ∧ firstRead22.cur.toNat / 2 < firstRead22.len.toNat := by decide +kernel

/-- Two buffers that agree below `LEN` = 18 and differ at byte 18, for each reader. -/
theorem witness_NoReadAtOrAboveLen :
    Instr.rds.wellFormed = true ∧ (Instr.rdb 38#6).wellFormed = true ∧ (Instr.rd12 38#6).wellFormed = true
      ∧ (∀ a : Nat, a < lastRead22.len.toNat →
          Memory.read (Memory.write lastRead22.fb 18 0xFF#8) a = Memory.read lastRead22.fb a)
      ∧ Memory.read (Memory.write lastRead22.fb 18 0xFF#8) 18 ≠ Memory.read lastRead22.fb 18 := by
  decide +kernel

theorem witness_BufferTooShortEntry :
    (loaded [] 0#7 22#8).len.toNat ≤ (loaded [] 0#7 22#8).cur.toNat / 2
      ∧ (38#6 : BitVec 6).toNat ≤ 38 ∧ lastRead22.len.toNat ≤ lastRead22.cur.toNat / 2
      ∧ lastRead10.len.toNat < lastRead10.cur.toNat / 2 + 2 ∧ Inv lastRead22 ∧ lastRead22.busy = true :=
  ⟨by decide, by decide, by decide, by decide, inv_lastRead22, rfl⟩

theorem witness_WgtAddsTheOffsets : ¬(4 ≤ 3 ∧ 3 ≤ 12) ∧ ¬(17 ≤ 3 ∧ 3 ≤ 25) ∧ ¬(4 ≤ 13 ∧ 13 ≤ 12) ∧ ¬(17 ≤ 38 ∧ 38 ≤ 25) := by
  decide

/-- The bounds of R135 themselves, in both units. -/
theorem witness_WeightingPropertyOverIntegers :
    (∀ k : Nat, k ≤ 8 → 0 ≤ (withBands (List.replicate 9 130050) atEnd22).q (30 + k)
        ∧ (withBands (List.replicate 9 130050) atEnd22).q (30 + k) ≤ 130050)
      ∧ (∀ k : Nat, k ≤ 8 → -2048 ≤ (withBands (List.replicate 9 (-2048)) lastRead21).q (30 + k)
        ∧ (withBands (List.replicate 9 (-2048)) lastRead21).q (30 + k) ≤ 2047)
      ∧ atEnd22.fmt = 22#8 ∧ lastRead21.fmt ≠ 22#8 := by
  simp only [← Nat.lt_succ_iff]
  decide +kernel

theorem witness_EndPublishesTheResults :
    atEnd22.fmt = 22#8 ∧ lastRead21.fmt = 21#8 ∧ lastRead10.fmt = 10#8 ∧ Inv atEnd22 ∧ atEnd22.busy = true :=
  ⟨rfl, rfl, rfl, inv_atEnd22, rfl⟩

theorem witness_PackedPeakProgramForEveryOrder :
    (orderCurves .zac)[0]? = some .lz ∧ (orderCurves .caz)[2]? = some .lz ∧ (orderCurves .azc)[1]? = some .lz := by decide

theorem witness_RomNeverChanges : step State.reset = .next State.reset := rfl

/-- Idle with 18 and with 19 bytes; running at the read that fails and at one that does not. -/
theorem witness_Dec22DecodesAScaledByteFrame :
    idle22.busy = false ∧ 19 ≤ idle22.len.toNat ∧ idle22short.busy = false ∧ idle22short.len.toNat < 19
      ∧ Inv lastRead22 ∧ lastRead22.undisturbed ∧ lastRead22.busy = true ∧ lastRead22.fmt = 22#8
      ∧ (lastRead22.seq.toNat ≤ 18 ∧ lastRead22.len.toNat ≤ lastRead22.seq.toNat) :=
  ⟨rfl, by decide, rfl, by decide, inv_lastRead22, ⟨rfl, rfl⟩, rfl, rfl, by decide⟩

theorem witness_Dec21DecodesAPackedSummaryFrame :
    idle21.busy = false ∧ 18 ≤ idle21.len.toNat ∧ idle21short.busy = false ∧ idle21short.len.toNat < 18
      ∧ Inv lastRead21 ∧ lastRead21.undisturbed ∧ lastRead21.busy = true ∧ lastRead21.fmt = 21#8
      ∧ (lastRead21.seq.toNat ≤ 0x20 ∧ lastRead21.len.toNat < 3 * (lastRead21.seq.toNat - 0x15) / 2 + 2) :=
  ⟨rfl, by decide, rfl, by decide, inv_lastRead21, ⟨rfl, rfl⟩, rfl, rfl, by decide⟩

theorem witness_Dec10DecodesAPackedPeakFrame :
    idle10.busy = false ∧ 50 ≤ idle10.len.toNat ∧ idle10short.busy = false ∧ idle10short.len.toNat < 50
      ∧ (orderCurves idle10.order)[2]? = some .lc := by decide +kernel

theorem witness_FailedCommandsKeepTheHiddenRegisters :
    (idle22short.busy = false ∧ idle22short.len.toNat < 19) ∧ (idle21short.busy = false ∧ idle21short.len.toNat < 18)
      ∧ (idle10short.busy = false ∧ idle10short.len.toNat < 50) := by decide

theorem witness_FinishedCommandsLeaveTheHiddenState :
    (idle22.busy = false ∧ 19 ≤ idle22.len.toNat) ∧ (idle21.busy = false ∧ 18 ≤ idle21.len.toNat)
      ∧ (idle10.busy = false ∧ 50 ≤ idle10.len.toNat) := by decide

theorem witness_DecnopWarnsAndReadsNothing :
    idle99.busy = false ∧ 99#8 ≠ 22#8 ∧ 99#8 ≠ 21#8 ∧ (99#8 : Byte) ≠ 10#8 := by decide

theorem witness_CommandsAreIgnoredWhileBusy : Instr.dec22.level = .command ∧ (Instr.decnop 99#8).level = .command
    ∧ firstRead22.busy = true := by decide

theorem witness_DenotedValuesAreExact :
    idle22.busy = false ∧ 19 ≤ idle22.len.toNat ∧ idle21.busy = false ∧ 18 ≤ idle21.len.toNat
      ∧ idle10.busy = false ∧ 50 ≤ idle10.len.toNat ∧ (orderCurves idle10.order)[0]? = some .lz
      ∧ ((38 : Fin 39).val = 13 * curveNumber .lz + 4 + 8 ∧ (26 : Fin 39).val = 13 * curveNumber .lz) := by decide

theorem witness_NoInstructionWritesItsInputs : exec .endOp atEnd22 = .next finished22 := rfl

/-- Nothing pending, a pausing host, `START` at the command level, and `WAIT` before and after `DONE`. -/
theorem witness_StepRunsTheDecodedInstruction :
    firstRead22.undisturbed ∧ firstRead22.busy = true ∧ firstRead22.lrom[firstRead22.seq.toNat]? = some 0x00#8
      ∧ decode .micro 0x00#8 = .instr .rds
      ∧ ({ firstRead22 with host := [.pause] }).host = .pause :: [] ∧ firstRead22.resetIn = false
      ∧ ({ idle22 with host := [.command] }).host = .command :: [] ∧ idle22.resetIn = false
      ∧ decode .command idle22.fmt = .instr .dec22
      ∧ ({ firstRead22 with host := [.wait] }).host = .wait :: [] ∧ firstRead22.done = false
      ∧ ({ finished22 with host := [.wait] }).host = .wait :: [] ∧ finished22.resetIn = false ∧ finished22.done = true :=
  ⟨⟨rfl, rfl⟩, rfl, rfl, by decide, rfl, rfl, rfl, rfl, by decide, rfl, rfl, rfl, rfl, rfl⟩

theorem witness_IdleStepKeepsTheState :
    idle22.host = [] ∧ idle22.busy = false ∧ heldReset.host = [] ∧ heldReset.resetIn = true := ⟨rfl, rfl, rfl, rfl⟩

/-- Each of the three cases of `START`. -/
theorem witness_StartBeginsOrWarns :
    ({ idle22 with host := [scriptStart] }).host = .write 0x82#8 1#32 :: [] ∧ idle22.resetIn = false
      ∧ (1#32).getLsbD 0 = true ∧ firstRead22.busy = true ∧ idle22.busy = false ∧ idle22.fmt = 22#8 ∧ idle21.fmt = 21#8
      ∧ idle10.fmt = 10#8 ∧ idle99.fmt ≠ 22#8 ∧ idle99.fmt ≠ 21#8 ∧ idle99.fmt ≠ 10#8 :=
  ⟨rfl, rfl, by decide, rfl, rfl, rfl, rfl, rfl, by decide, by decide, by decide⟩

/-- Bit 0 clear with other bits set; bit 0 set while busy. -/
theorem witness_CtrlHasOneBit :
    (0xFFFFFFFE#32).getLsbD 0 = false ∧ firstRead22.busy = true ∧ idle22.resetIn = false
      ∧ ({ idle22 with host := [.read 0x82#8] }).host = .read 0x82#8 :: [] := ⟨by decide, rfl, rfl, rfl⟩

theorem witness_BusyLockOut :
    firstRead22.busy = true ∧ Inv firstRead22 ∧ (0x7F#8).toNat < 128 ∧ 0xC0 ≤ (0xC0#8).toNat ∧ (0xE6#8).toNat ≤ 0xE6 :=
  ⟨rfl, inv_firstRead22, by decide, by decide, by decide⟩

/-- Boundary register numbers of each clause, in one idle state. -/
theorem witness_HostReadsEveryRegister :
    ({ finished22 with host := [.read 0xC0#8] }).host = .read 0xC0#8 :: [] ∧ finished22.resetIn = false
      ∧ (0x7F#8).toNat < 128 ∧ (0xE6#8).toNat = 0xC0 + 38 ∧ 0x87 ≤ (0x87#8).toNat ∧ (0xBF#8).toNat ≤ 0xBF
      ∧ 0xE7 ≤ (0xE7#8).toNat := by decide +kernel

theorem witness_HostWritesEveryRegister :
    ({ idle22 with host := [.write 0x7F#8 0x1FF#32] }).host = .write 0x7F#8 0x1FF#32 :: [] ∧ idle22.resetIn = false
      ∧ idle22.busy = false ∧ 0x7F#8 ≠ 0x82#8 ∧ (0x7F#8).toNat < 128 ∧ 128 ≤ (0x80#8).toNat := by decide +kernel

/-- `LZ_PEAK` after a format-22 decode. -/
theorem witness_AbsentResultHasNoValue :
    finished22.present.getLsbD 29 = false ∧ finished22.resetIn = false
      ∧ ({ finished22 with host := [.read 0xDD#8] }).host = .read (BitVec.ofNat 8 (0xC0 + 29)) :: [] := by decide +kernel

/-- `reset` in the middle of a decode, and each host action while it is asserted. -/
theorem witness_ResetLine :
    ({ firstRead22 with host := [.reset true] }).host = .reset true :: [] ∧ heldReset.resetIn = true ∧ heldReset.host = []
      ∧ ({ heldReset with host := [.pause] }).host = .pause :: []
      ∧ ({ heldReset with host := [scriptStart] }).host = .write 0x82#8 1#32 :: []
      ∧ ({ heldReset with host := [.command] }).host = .command :: []
      ∧ ({ heldReset with host := [.reset false] }).host = .reset false :: [] := ⟨rfl, rfl, rfl, rfl, rfl, rfl, rfl⟩

/-- A finished decode with nothing pending; and with `START` pending. -/
theorem witness_ResultsStayUntilTheNextStart :
    Inv finished22 ∧ finished22.done = true ∧ step finished22 = .next finished22
      ∧ (∀ (rest : List HostOp) (v : Word), finished22.host = .write 0x82#8 v :: rest → v.getLsbD 0 = false)
      ∧ (∀ rest : List HostOp, finished22.host ≠ .command :: rest)
      ∧ (∀ rest : List HostOp, finished22.host ≠ .reset true :: rest)
      ∧ ({ finished22 with host := [scriptStart] }).host = .write 0x82#8 1#32 :: [] ∧ finished22.resetIn = false
      ∧ (1#32).getLsbD 0 = true ∧ finished22.busy = false :=
  ⟨inv_finished22, rfl, rfl, nofun, nofun, nofun, rfl, rfl, by decide, rfl⟩

/-- `START` after a finished decode. -/
theorem witness_IrqDoneFallsOnlyAtStartOrReset :
    Inv { finished22 with host := [scriptStart] }
      ∧ step { finished22 with host := [scriptStart] } = .next (beginDecode finished22)
      ∧ finished22.irqDone = true ∧ (beginDecode finished22).irqDone = false :=
  ⟨⟨inv_finished22.memory, rfl, nofun, nofun, nofun, nofun, fun _ => ⟨22#8, rfl, rfl, rfl⟩, nofun, by decide, by decide, nofun⟩,
    rfl, rfl, rfl⟩

theorem witness_DecodeEndsWithDoneOrReset :
    Inv atEnd22 ∧ atEnd22.busy = true ∧ step atEnd22 = .next finished22 ∧ finished22.busy = false :=
  ⟨inv_atEnd22, rfl, rfl, rfl⟩

theorem witness_SequencerIsStraightLine :
    Inv lastRead10 ∧ lastRead10.undisturbed ∧ lastRead10.busy = true := ⟨inv_lastRead10, ⟨rfl, rfl⟩, rfl⟩

theorem witness_EveryStepKeepsTheInvariant :
    Inv atEnd22 ∧ step atEnd22 = .next finished22 ∧ Inv heldReset ∧ step heldReset = .next heldReset :=
  ⟨inv_atEnd22, rfl, inv_heldReset, rfl⟩

theorem witness_NothingStopsARun : Inv firstRead22 ∧ Inv finished22 ∧ Inv heldReset :=
  ⟨inv_firstRead22, inv_finished22, inv_heldReset⟩

theorem witness_EveryDecodeTerminates :
    (Inv idle22 ∧ idle22.undisturbed ∧ idle22.busy = false ∧ idle22.fmt = 22#8)
      ∧ (Inv idle21 ∧ idle21.undisturbed ∧ idle21.busy = false ∧ idle21.fmt = 21#8)
      ∧ (Inv idle10 ∧ idle10.undisturbed ∧ idle10.busy = false ∧ idle10.fmt = 10#8)
      ∧ (Inv idle99 ∧ idle99.undisturbed ∧ idle99.busy = false ∧ idle99.fmt ≠ 22#8 ∧ idle99.fmt ≠ 21#8 ∧ idle99.fmt ≠ 10#8)
      ∧ (Inv lastRead10 ∧ lastRead10.resetIn = false ∧ lastRead10.busy = true) :=
  ⟨⟨inv_idle22, ⟨rfl, rfl⟩, rfl, rfl⟩, ⟨inv_idle21, ⟨rfl, rfl⟩, rfl, rfl⟩, ⟨inv_idle10, ⟨rfl, rfl⟩, rfl, rfl⟩,
    ⟨inv_idle99, ⟨rfl, rfl⟩, rfl, by decide, by decide, by decide⟩, inv_lastRead10, rfl, rfl⟩

/-- The boundary lengths of each format, and for each format a running state at the read that fails and one at a read that does
not. -/
theorem witness_ShortFramesFailAndOnlyThey :
    (Inv idle22short ∧ idle22short.undisturbed ∧ idle22short.busy = false ∧ idle22short.fmt = 22#8)
      ∧ (Inv idle21short ∧ idle21short.undisturbed ∧ idle21short.busy = false ∧ idle21short.fmt = 21#8)
      ∧ (Inv idle10short ∧ idle10short.undisturbed ∧ idle10short.busy = false ∧ idle10short.fmt = 10#8)
      ∧ (Inv lastRead22 ∧ lastRead22.undisturbed ∧ lastRead22.busy = true)
      ∧ (Inv lastRead10 ∧ lastRead10.undisturbed ∧ lastRead10.busy = true)
      ∧ (Inv firstRead10 ∧ firstRead10.undisturbed ∧ firstRead10.busy = true) :=
  ⟨⟨inv_idle22short, ⟨rfl, rfl⟩, rfl, rfl⟩, ⟨inv_idle21short, ⟨rfl, rfl⟩, rfl, rfl⟩, ⟨inv_idle10short, ⟨rfl, rfl⟩, rfl, rfl⟩,
    ⟨inv_lastRead22, ⟨rfl, rfl⟩, rfl⟩, ⟨inv_lastRead10, ⟨rfl, rfl⟩, rfl⟩, ⟨inv_firstRead10, ⟨rfl, rfl⟩, rfl⟩⟩

theorem witness_TheTwoLevelsAgree :
    (Inv idle10 ∧ idle10.undisturbed ∧ idle10.busy = false) ∧ (Inv idle22short ∧ idle22short.undisturbed ∧ idle22short.busy = false) :=
  ⟨⟨inv_idle10, ⟨rfl, rfl⟩, rfl⟩, ⟨inv_idle22short, ⟨rfl, rfl⟩, rfl⟩⟩

/-- Two states of format 22 that agree below 19 bytes only: byte 19 is written in one of them alone. -/
theorem witness_DecodingIsPure :
    Inv idle22 ∧ Inv (loaded (frameV1 ++ [0xFF#8]) 19#7 22#8) ∧ idle22.undisturbed
      ∧ (loaded (frameV1 ++ [0xFF#8]) 19#7 22#8).undisturbed ∧ idle22.busy = false
      ∧ (∀ a : Nat, a < idle22.len.toNat → a < leastLength idle22.fmt →
          Memory.read idle22.fb a = Memory.read (loaded (frameV1 ++ [0xFF#8]) 19#7 22#8).fb a) :=
  ⟨inv_idle22, inv_loaded (by decide +kernel), ⟨rfl, rfl⟩, ⟨rfl, rfl⟩, rfl, by decide +kernel⟩

end Sys2Proof.Tests
end

section
/-! PROOFS. The host's reads of the result registers (R14, R26). -/

namespace Sys2Proof.Machine

/-! ## The register numbers of the results -/

theorem toNat_regResult (n : Fin 39) : (regResult n).toNat = 192 + n.val :=
  Nat.mod_eq_of_lt (by omega)

/-- No register number below 192 is a result's. -/
theorem regResult_ne {n : Fin 39} {k : BitVec 8} (h : k.toNat < 192) : regResult n ≠ k := by
  rintro rfl
  rw [toNat_regResult] at h
  omega

/-! ## What a read of a result register answers -/

theorem readRegister_regResult (s : State) (n : Fin 39) : readRegister (regResult n) s = replyOfResult s n := by
  have notFrame : ¬ (regResult n).toNat < 128 := by rw [toNat_regResult]; omega
  have inMap : 192 ≤ (regResult n).toNat ∧ (regResult n).toNat < 231 := by rw [toNat_regResult]; omega
  have index : (⟨(regResult n).toNat - 192, by omega⟩ : Fin 39) = n := Fin.ext (by simp [toNat_regResult])
  simp (disch := decide) only [readRegister, if_neg notFrame, regResult_ne, if_false, dif_pos inMap, index]

theorem replyOfResult_absent {s : State} {n : Fin 39} (h : s.present.getLsbD n.val = false) :
    replyOfResult s n = .noValue := by
  rw [replyOfResult, result?_absent h]

/-- A pending host read is the whole step, whatever the sequencer was doing. -/
theorem step_read {s : State} {n : BitVec 8} {rest : List HostOp} (h : s.host = .read n :: rest) :
    step s = .next (portRead n { s with host := rest }) := by
  rw [step, turn, h]

/-! ## Absent results -/

/-- Settles O38: the read is one step of the port (`step_read`), and the number 0xC0 + n names the result `n`
(`readRegister_regResult`), which its presence bit makes absent. -/
theorem absentResultHasNoValue : Obligations.AbsentResultHasNoValue := by
  intro s rest n absent
  refine ⟨result?_absent absent, fun pending released => ⟨_, step_read pending, ?_⟩⟩
  calc (portRead (regResult n) { s with host := rest }).reply
      = readRegister (regResult n) { s with host := rest } := portRead_reply released
    _ = replyOfResult { s with host := rest } n := readRegister_regResult _ n
    _ = .noValue := replyOfResult_absent absent

end Sys2Proof.Machine
end

section
/-! PROOFS. The packed-nibble multiplexer reads the nibbles of the frame (R8, R40, R95). -/

namespace Sys2Proof.Machine

/-! ## The two forms of the multiplexer as numbers -/

/-- The mask of the odd form keeps the low nibble. -/
theorem toNat_and_lowNibble (b : Byte) : (b &&& 0x0F#8).toNat = b.toNat % 16 := by
  rw [BitVec.toNat_and]
  exact Nat.and_two_pow_sub_one_eq_mod b.toNat 4

/-- The two operands of the OR share no bit, so it is a sum (`Nat.shiftLeft_add_eq_or_of_lt`). -/
theorem toNat_evenField (b0 b1 : Byte) : (evenField b0 b1).toNat = b0.toNat * 16 + b1.toNat / 16 := by
  have h0 : b0.toNat < 256 := b0.isLt
  have h1 : b1.toNat < 256 := b1.isLt
  have high : (b0.setWidth 12 <<< 4).toNat = b0.toNat <<< 4 := by
    simp only [BitVec.toNat_shiftLeft, BitVec.toNat_setWidth, Nat.shiftLeft_eq]
    omega
  have low : (b1.setWidth 12 >>> 4).toNat = b1.toNat / 16 := by
    simp only [BitVec.toNat_ushiftRight, BitVec.toNat_setWidth, Nat.shiftRight_eq_div_pow]
    omega
  rw [evenField, BitVec.toNat_or, high, low, ← Nat.shiftLeft_add_eq_or_of_lt (by omega), Nat.shiftLeft_eq]

/-- As for the even form, the OR is a sum. -/
theorem toNat_oddField (b0 b1 : Byte) : (oddField b0 b1).toNat = b0.toNat % 16 * 256 + b1.toNat := by
  have h1 : b1.toNat < 256 := b1.isLt
  have high : ((b0 &&& 0x0F#8).setWidth 12 <<< 8).toNat = (b0.toNat % 16) <<< 8 := by
    simp only [BitVec.toNat_shiftLeft, BitVec.toNat_setWidth, toNat_and_lowNibble, Nat.shiftLeft_eq]
    omega
  have low : (b1.setWidth 12).toNat = b1.toNat := BitVec.toNat_setWidth_of_le (by decide)
  rw [oddField, BitVec.toNat_or, high, low, ← Nat.shiftLeft_add_eq_or_of_lt h1, Nat.shiftLeft_eq]

theorem toNat_extract12_even {i : Nat} (m : Memory) (even : i % 2 = 0) :
    (extract12 m i).toNat = (Memory.read m (i / 2)).toNat * 16 + (Memory.read m (i / 2 + 1)).toNat / 16 := by
  rw [extract12, if_pos even, toNat_evenField, byteOf]

theorem toNat_extract12_odd {i : Nat} (m : Memory) (odd : i % 2 = 1) :
    (extract12 m i).toNat = (Memory.read m (i / 2)).toNat % 16 * 256 + (Memory.read m (i / 2 + 1)).toNat := by
  rw [extract12, if_neg (by omega), toNat_oddField, byteOf]

/-! ## The nibbles of one byte, and of a field -/

theorem nibble_two_mul (m : Memory) (a : Nat) : nibble m (2 * a) = (Memory.read m a).toNat / 16 := by
  rw [nibble, if_pos (by omega), Nat.mul_div_cancel_left a (by decide)]

theorem nibble_two_mul_add_one (m : Memory) (a : Nat) : nibble m (2 * a + 1) = (Memory.read m a).toNat % 16 := by
  rw [nibble, if_neg (by omega), show (2 * a + 1) / 2 = a by omega]

/-- A byte is its two nibbles. -/
theorem nibble_pair (m : Memory) (a : Nat) :
    16 * nibble m (2 * a) + nibble m (2 * a + 1) = (Memory.read m a).toNat := by
  rw [nibble_two_mul, nibble_two_mul_add_one, Nat.div_add_mod]

/-- From an even index the field is a whole byte and the high nibble of the next. -/
theorem nibbleField_even {i : Nat} (m : Memory) (even : i % 2 = 0) :
    nibbleField m i = (Memory.read m (i / 2)).toNat * 16 + (Memory.read m (i / 2 + 1)).toNat / 16 := by
  obtain ⟨a, rfl⟩ : ∃ a, i = 2 * a := ⟨i / 2, by omega⟩
  have whole := nibble_pair m a
  have next : nibble m (2 * a + 2) = (Memory.read m (a + 1)).toNat / 16 := nibble_two_mul m (a + 1)
  rw [nibbleField, next, Nat.mul_div_cancel_left a (by decide)]
  omega

/-- From an odd index the field is the low nibble of a byte and the whole of the next. -/
theorem nibbleField_odd {i : Nat} (m : Memory) (odd : i % 2 = 1) :
    nibbleField m i = (Memory.read m (i / 2)).toNat % 16 * 256 + (Memory.read m (i / 2 + 1)).toNat := by
  obtain ⟨a, rfl⟩ : ∃ a, i = 2 * a + 1 := ⟨i / 2, by omega⟩
  have whole : 16 * nibble m (2 * a + 1 + 1) + nibble m (2 * a + 1 + 2) = (Memory.read m (a + 1)).toNat :=
    nibble_pair m (a + 1)
  rw [nibbleField, nibble_two_mul_add_one, show (2 * a + 1) / 2 = a by omega]
  omega

/-- The multiplexer reads the field of R40: both are the same two bytes, taken apart alike for each parity. -/
theorem toNat_extract12 (m : Memory) (i : Nat) : (extract12 m i).toNat = nibbleField m i := by
  rcases Nat.mod_two_eq_zero_or_one i with even | odd
  · rw [toNat_extract12_even m even, nibbleField_even m even]
  · rw [toNat_extract12_odd m odd, nibbleField_odd m odd]

/-- Settles O8: the nibble form is `toNat_extract12`, the byte forms are the two arms of the multiplexer. -/
theorem extractReadsThreeNibbles : Obligations.ExtractReadsThreeNibbles := fun m i =>
  ⟨toNat_extract12 m i, toNat_extract12_even m, toNat_extract12_odd m⟩

end Sys2Proof.Machine
end

section
/-! PROOFS. The decoder by the two fields of a word, the opcode maps, and the reserved words (R71, R73 to R75). -/

namespace Sys2Proof

/-! ## The fields of a micro-operation word (R73) -/

/-- A word is its two fields. -/
theorem opField_append_destField (w : Byte) : opField w ++ destField w = w := by
  refine BitVec.eq_of_getLsbD_eq fun i hi => ?_
  simp only [opField, destField, BitVec.getLsbD_append, BitVec.getLsbD_extractLsb']
  by_cases low : i < 6
  · simp [low]
  · simp [low, show i - 6 < 2 by omega, show 6 + (i - 6) = i by omega]

@[simp] theorem opField_append (op : BitVec 2) (d : BitVec 6) : opField (op ++ d) = op :=
  BitVec.extractLsb'_append_eq_left

@[simp] theorem destField_append (op : BitVec 2) (d : BitVec 6) : destField (op ++ d) = d :=
  BitVec.extractLsb'_append_eq_right

theorem append_eq_iff {op : BitVec 2} {d : BitVec 6} {w : Byte} : op ++ d = w ↔ opField w = op ∧ destField w = d := by
  constructor
  · rintro rfl
    exact ⟨opField_append op d, destField_append op d⟩
  · rintro ⟨rfl, rfl⟩
    exact opField_append_destField w

theorem toNat_opField (w : Byte) : (opField w).toNat = w.toNat / 64 := by
  have := w.isLt
  simp only [opField, BitVec.extractLsb'_toNat, Nat.shiftRight_eq_div_pow]
  omega

theorem toNat_destField (w : Byte) : (destField w).toNat = w.toNat % 64 := by
  simp [destField]

theorem opField_cases (w : Byte) : opField w = 0#2 ∨ opField w = 1#2 ∨ opField w = 2#2 ∨ opField w = 3#2 := by
  generalize opField w = op
  revert op
  decide

theorem opField_eq_three {w : Byte} (n0 : opField w ≠ 0#2) (n1 : opField w ≠ 1#2) (n2 : opField w ≠ 2#2) :
    opField w = 3#2 := by
  simpa [n0, n1, n2] using opField_cases w

/-- The mask 0xC0 of the rows of R74 that have an operand keeps the `op` field alone. -/
theorem and_opMask (w : Byte) : w &&& 0xC0#8 = opField w ++ 0#6 := by
  calc w &&& 0xC0#8 = (opField w ++ destField w) &&& (3#2 ++ 0#6) := by rw [opField_append_destField]; rfl
    _ = (opField w &&& 3#2) ++ (destField w &&& 0#6) := BitVec.and_append
    _ = opField w ++ 0#6 := by rw [BitVec.and_zero, show 3#2 = BitVec.allOnes 2 from rfl, BitVec.and_allOnes]

theorem and_opMask_eq_iff (w : Byte) (op : BitVec 2) : w &&& 0xC0#8 = op ++ 0#6 ↔ opField w = op := by
  rw [and_opMask, eq_comm, append_eq_iff, opField_append, destField_append]
  simp [eq_comm]

theorem and_fullMask (w : Byte) : w &&& 0xFF#8 = w := BitVec.and_allOnes

/-! ## The micro-operation decoder, said once -/

/-- Every word the decoder accepts is the encoding of what it decodes to. -/
theorem encode_of_decodeUop {w : Byte} {i : Instr} (h : decodeUop w = .instr i) :
    i.level = .micro ∧ i.wellFormed = true ∧ encode i = w := by
  unfold decodeUop at h
  split_ifs at h with op0 d0 op1 ok1 op2 ok2 d0 d1
  all_goals cases h
  · exact ⟨rfl, rfl, append_eq_iff.mpr ⟨op0, d0⟩⟩
  · exact ⟨rfl, ok1, append_eq_iff.mpr ⟨op1, rfl⟩⟩
  · exact ⟨rfl, ok2, append_eq_iff.mpr ⟨op2, rfl⟩⟩
  · exact ⟨rfl, rfl, append_eq_iff.mpr ⟨opField_eq_three op0 op1 op2, d0⟩⟩
  · exact ⟨rfl, rfl, append_eq_iff.mpr ⟨opField_eq_three op0 op1 op2, d1⟩⟩

/-- Decode after encode, for the micro-operations. -/
theorem decodeUop_encode {i : Instr} (micro : i.level = .micro) (wf : i.wellFormed = true) :
    decodeUop (encode i) = .instr i := by
  cases i with
  | rds => rfl
  | wgt => rfl
  | endOp => rfl
  | rdb d =>
    have ok : destinationOk d = true := wf
    simp [encode, decodeUop, ok]
  | rd12 d =>
    have ok : destinationOk d = true := wf
    simp [encode, decodeUop, ok]
  | dec22 => cases micro
  | dec21 => cases micro
  | dec10 => cases micro
  | decnop f => cases micro

theorem decodeUop_eq_instr_iff {w : Byte} {i : Instr} :
    decodeUop w = .instr i ↔ i.level = .micro ∧ i.wellFormed = true ∧ encode i = w := by
  constructor
  · exact encode_of_decodeUop
  · rintro ⟨micro, wf, rfl⟩
    exact decodeUop_encode micro wf

/-! ## The opcode maps -/

/-- Settles O3: the three literal words by computation, every other one by falling through the three comparisons. -/
theorem commandOpcodeMap : Obligations.CommandOpcodeMap :=
  ⟨rfl, rfl, rfl, fun f n22 n21 n10 => by rw [decode, decodeCommand, if_neg n22, if_neg n21, if_neg n10]⟩

/-- A row of R74 without an operand: its mask is the whole word. -/
theorem decode_micro_iff_fullMask {i : Instr} (micro : i.level = .micro) (wf : i.wellFormed = true) (w : Byte) :
    decode .micro w = .instr i ↔ w &&& 0xFF#8 = encode i := by
  rw [and_fullMask, decode, decodeUop_eq_instr_iff]
  simp only [micro, wf, true_and, eq_comm (a := w)]

/-- A row of R74 with an operand: its mask keeps `op`, and the rest of the word is the destination. -/
theorem decode_micro_iff_opMask {i : Instr} {op : BitVec 2} {d : BitVec 6} (micro : i.level = .micro)
    (wf : i.wellFormed = destinationOk d) (word : encode i = op ++ d) (w : Byte) :
    decode .micro w = .instr i ↔ w &&& 0xC0#8 = op ++ 0#6 ∧ d = destField w ∧ d.toNat ≤ 38 := by
  have inRange : destinationOk d = true ↔ d.toNat ≤ 38 := by rw [destinationOk, decide_eq_true_iff, Nat.lt_succ_iff]
  rw [decode, decodeUop_eq_instr_iff, word, append_eq_iff, and_opMask_eq_iff, wf, inRange]
  simp only [micro, true_and, eq_comm (a := d)]
  tauto

/-- Settles O4: each row is one of the two kinds, with the row's own match. -/
theorem microOperationOpcodeMap : Obligations.MicroOperationOpcodeMap := fun w =>
  ⟨decode_micro_iff_fullMask rfl rfl w,
    fun _ => decode_micro_iff_opMask (op := 1#2) rfl rfl rfl w,
    fun _ => decode_micro_iff_opMask (op := 2#2) rfl rfl rfl w,
    decode_micro_iff_fullMask rfl rfl w,
    decode_micro_iff_fullMask rfl rfl w⟩

/-! ## Reserved words (R75) -/

/-- The reserved words by their fields. -/
theorem decodeUop_reserved_iff (w : Byte) :
    (∃ why, decodeUop w = .reserved why) ↔
      (opField w = 0#2 ∧ destField w ≠ 0#6)
        ∨ ((opField w = 1#2 ∨ opField w = 2#2) ∧ destinationOk (destField w) = false)
        ∨ (opField w = 3#2 ∧ destField w ≠ 0#6 ∧ destField w ≠ 1#6) := by
  rcases opField_cases w with op | op | op | op <;> simp only [decodeUop, op]
  · by_cases d0 : destField w = 0#6 <;> simp [d0]
  · cases destinationOk (destField w) <;> simp
  · cases destinationOk (destField w) <;> simp
  · by_cases d0 : destField w = 0#6
    · simp [d0]
    · by_cases d1 : destField w = 1#6 <;> simp [d0, d1]

/-- The reserved words by their value. -/
theorem decodeUop_reserved_iff_range (w : Byte) :
    (∃ why, decodeUop w = .reserved why) ↔
      (0x01 ≤ w.toNat ∧ w.toNat ≤ 0x3F) ∨ (0x67 ≤ w.toNat ∧ w.toNat ≤ 0x7F)
        ∨ (0xA7 ≤ w.toNat ∧ w.toNat ≤ 0xBF) ∨ 0xC2 ≤ w.toNat := by
  have bound : w.toNat < 256 := w.isLt
  simp only [decodeUop_reserved_iff, destinationOk, decide_eq_false_iff_not, ne_eq, ← BitVec.toNat_inj, toNat_opField,
    toNat_destField, BitVec.toNat_ofNat]
  omega

namespace Machine

/-- Every word of `LROM` is one of the program's micro-operations (`rom_decodes`). -/
theorem decodeUop_of_mem_lromImage {o : CurveOrder} {w : Byte} (h : w ∈ lromImage o) : ∃ i, decodeUop w = .instr i := by
  have image : decodeUop w ∈ (program o).map Decoded.instr := rom_decodes o ▸ List.mem_map_of_mem h
  obtain ⟨i, -, same⟩ := List.mem_map.mp image
  exact ⟨i, same.symm⟩

theorem length_lromImage (o : CurveOrder) : (lromImage o).length = 69 := by
  calc (lromImage o).length = (program o).length := List.length_map _
    _ = 69 := program_length o

/-- An enabled sequencer that fetches a reserved word is refused. -/
theorem sequencerTurn_reserved {s : State} {w : Byte} {why : Reserved} (on : s.sequencerEnabled = true)
    (fetched : s.fetch = some w) (reserved : decodeUop w = .reserved why) :
    sequencerTurn s = .refused (.reservedWord w) := by
  simp [sequencerTurn, on, fetched, reserved]

theorem exec_rdb_reserved (s : State) {d : BitVec 6} (h : 39 ≤ d.toNat) :
    exec (.rdb d) s = .refused (.reservedWord (encode (.rdb d))) := by
  rw [exec, execRdb, withDestination_reserved h]

theorem exec_rd12_reserved (s : State) {d : BitVec 6} (h : 39 ≤ d.toNat) :
    exec (.rd12 d) s = .refused (.reservedWord (encode (.rd12 d))) := by
  rw [exec, execRd12, withDestination_reserved h]

/-- Under the invariant a fetch stays inside `LROM`, whose words all decode (`program_at`, `fetch_program`). -/
theorem fetch_decodes_of_inv {s : State} (inv : Inv s) : ∃ w i, s.fetch = some w ∧ decodeUop w = .instr i := by
  obtain ⟨i, atSeq, -⟩ := program_at s.order inv.seqBound
  obtain ⟨w, fetched, decoded⟩ := fetch_program inv.rom atSeq
  exact ⟨w, i, fetched, decoded⟩

/-- Settles O5: the ranges by the fields of a word, `LROM` by what its words decode to, the refusals by the two places that
refuse (the fetch and the destination), the last clause by the invariant's bound on `SEQ`. -/
theorem reservedWordsAreRefusedAndNeverFetched : Obligations.ReservedWordsAreRefusedAndNeverFetched := by
  refine ⟨decodeUop_reserved_iff_range, fun _ _ => decodeUop_of_mem_lromImage, length_lromImage, ?_,
    fun s _ h => ⟨exec_rdb_reserved s h, exec_rd12_reserved s h⟩, fun _ inv _ => fetch_decodes_of_inv inv⟩
  intro s w why ⟨idleHost, released⟩ busy fetched reserved
  have on : s.sequencerEnabled = true := by simp [State.sequencerEnabled, busy, released]
  rw [step_undisturbed idleHost]
  exact sequencerTurn_reserved on fetched reserved

end Machine

end Sys2Proof
end

section
/-! PROOFS. The field readers: what a read that completes leaves in the state, the values it gives, and its bound (R91 to R100). -/

namespace Sys2Proof.Machine

/-! ## Sign extension (R97) -/

/-- The mask 0x800 tests bit 11, which is set from 2048 on. -/
theorem and_signBit_eq_zero_iff (u : BitVec 12) : u &&& 0x800#12 = 0#12 ↔ u.toNat < 2048 := by
  have bit : u.getLsbD 11 = decide (2048 ≤ u.toNat) := BitVec.getLsbD_last u
  rw [show 0x800#12 = BitVec.twoPow 12 11 from rfl, BitVec.and_twoPow, bit]
  by_cases low : u.toNat < 2048
  · simp [low]
  · simp only [show 2048 ≤ u.toNat by omega, low, decide_true, if_true, iff_false]
    decide

theorem sext12_nonneg {u : BitVec 12} (clear : u &&& 0x800#12 = 0#12) : sext12 u = u.setWidth 32 :=
  if_neg (not_not.mpr clear)

theorem sext12_neg {u : BitVec 12} (negative : u &&& 0x800#12 ≠ 0#12) : sext12 u = u.setWidth 32 ||| 0xFFFFF000#32 :=
  if_pos negative

/-- The field and the sign bits above it share no bit, so the OR is a sum. -/
theorem toNat_or_signBits (u : BitVec 12) : (u.setWidth 32 ||| 0xFFFFF000#32).toNat = 0xFFFFF000 + u.toNat := by
  have low : (u.setWidth 32).toNat = u.toNat := BitVec.toNat_setWidth_of_le (by decide)
  rw [BitVec.toNat_or, low, Nat.or_comm]
  exact (Nat.shiftLeft_add_eq_or_of_lt u.isLt 0xFFFFF).symm

/-- Sign extension denotes the two's-complement value of the pattern (R60, R97). -/
theorem toInt_sext12 (u : BitVec 12) : (sext12 u).toInt = signed12 u.toNat := by
  have bound : u.toNat < 4096 := u.isLt
  rw [signed12, BitVec.toInt_eq_toNat_cond]
  by_cases low : u.toNat < 2048
  · rw [if_pos low, sext12_nonneg ((and_signBit_eq_zero_iff u).mpr low), BitVec.toNat_setWidth_of_le (by decide),
      if_pos (by omega)]
  · rw [if_neg low, sext12_neg (mt (and_signBit_eq_zero_iff u).mp low), toNat_or_signBits, if_neg (by omega)]
    push_cast
    omega

theorem signed12_range {u : Nat} (h : u < 4096) : -2048 ≤ signed12 u ∧ signed12 u ≤ 2047 := by
  unfold signed12
  split_ifs <;> omega

/-- Two's complement in 12 bits: the pattern `n mod 4096` denotes `n` (R60, R100). -/
theorem signed12_of_emod {n : Int} {u : Nat} (low : -2048 ≤ n) (high : n ≤ 2047) (pattern : (u : Int) = n % 4096) :
    signed12 u = n := by
  unfold signed12
  split_ifs <;> omega

/-- Settles O9: as a word each case is one branch of `sext12`, as an integer `toInt_sext12`. -/
theorem signExtensionOfTwelveBits : Obligations.SignExtensionOfTwelveBits := by
  intro u
  rw [toInt_sext12, signed12]
  refine ⟨fun negative => ⟨sext12_neg negative, if_neg ?_⟩, fun clear => ⟨sext12_nonneg clear, if_pos ?_⟩⟩
  · exact mt (and_signBit_eq_zero_iff u).mpr negative
  · exact (and_signBit_eq_zero_iff u).mp clear

/-! ## The value of a byte read (R93, R98) -/

theorem scaledWord_range (s r : Byte) : 0 ≤ (scaledWord s r).toInt ∧ (scaledWord s r).toInt ≤ 130050 := by
  have hs := s.isLt
  have hr := r.isLt
  have : s.toNat * r.toNat ≤ 255 * 255 := Nat.mul_le_mul (by omega) (by omega)
  rw [scaledWord_toInt]
  omega

/-- The product over 510 is the scaled magnitude exactly. -/
theorem scaledWord_over_unit (s r : Byte) :
    ((scaledWord s r).toInt : ℚ) / 510 = (s.toNat : ℚ) / 255 * (r.toNat : ℚ) := by
  rw [scaledWord_toInt]
  push_cast
  ring

/-! ## The words of the registers -/

@[simp] theorem word_advance (s : State) (k n : Nat) : (s.advance k).word n = s.word n := rfl

theorem word_setResult_same (s : State) (n : Fin 39) (w : Word) : (s.setResult n w).word n.val = w := by
  rw [word_eq_getResult _ n.isLt, getResult_setResult_same]

theorem word_setResult_other (s : State) {n : Fin 39} {k : Nat} (w : Word) (h : k ≠ n.val) :
    (s.setResult n w).word k = s.word k := by
  by_cases inRange : k < 39
  · rw [word_eq_getResult _ inRange, word_eq_getResult _ inRange, getResult_setResult_other]
    exact Fin.ne_of_val_ne h
  · rw [State.word, State.word, dif_neg inRange, dif_neg inRange]

/-! ## What a read that completes leaves -/

/-- Whatever writes at most `STATUS`, the results with their unit and presence bits, and the engine's own registers keeps the
inputs. -/
theorem inputsKept_of_frame {s t : State}
    (frame : t = { s with busy := t.busy, done := t.done, err := t.err, warn := t.warn, unit := t.unit, present := t.present,
                          r := t.r, cur := t.cur, seq := t.seq, scale := t.scale }) : InputsKept s t := by
  rw [frame]
  exact ⟨fun _ => rfl, fun _ => rfl, rfl, rfl, rfl, rfl, rfl, rfl, rfl, rfl⟩

/-- From `s` to `t` a read of `nibbles` nibbles has put `w` into `R[n]`; nothing else changed but `CUR` and `SEQ` (R93, R96). -/
structure ReadInto (s t : State) (n : Nat) (w : Word) (nibbles : Nat) : Prop where
  result : t.q n = w.toInt
  others : ∀ k : Nat, k ≠ n → t.word k = s.word k
  cur : t.cur.toNat = s.cur.toNat + nibbles
  seq : t.seq = s.seq + 1#7
  scale : t.scale = s.scale
  status : StatusKept s t
  inputs : InputsKept s t

/-- Writing the result and advancing is such a read, where the cursor does not wrap. -/
theorem readInto_setResult_advance {s : State} {n : Fin 39} {nibbles : Nat} (w : Word)
    (noWrap : (s.cur + BitVec.ofNat 8 nibbles).toNat = s.cur.toNat + nibbles) :
    ReadInto s ((s.setResult n w).advance nibbles) n.val w nibbles where
  result := by rw [State.q, word_advance, word_setResult_same]
  others k other := word_setResult_other s w other
  cur := noWrap
  seq := rfl
  scale := rfl
  status := ⟨rfl, rfl, rfl, rfl, rfl, rfl⟩
  inputs := inputsKept_of_frame rfl

/-- `RDB` with its byte present (R93). -/
theorem exec_rdb_readInto {s : State} {d : BitVec 6} {n : Nat} (dest : d.toNat = n) (legal : n ≤ 38)
    (fits : s.cur.toNat / 2 < s.len.toNat) :
    ∃ t, exec (.rdb d) s = .next t ∧ ReadInto s t n (scaledWord s.scale (Memory.read s.fb (s.cur.toNat / 2))) 2 := by
  subst dest
  exact ⟨_, exec_rdb_fits (by omega) fits, readInto_setResult_advance _ (cur_after_byte ((byteFits_iff _ _).mpr fits))⟩

/-- `RD12` with both its bytes present (R96). -/
theorem exec_rd12_readInto {s : State} {d : BitVec 6} {n : Nat} (dest : d.toNat = n) (legal : n ≤ 38)
    (fits : s.cur.toNat / 2 + 2 ≤ s.len.toNat) :
    ∃ t, exec (.rd12 d) s = .next t ∧ ReadInto s t n (sext12 (extract12 s.fb s.cur.toNat)) 3 := by
  subst dest
  exact ⟨_, exec_rd12_fits (by omega) fits, readInto_setResult_advance _ (cur_after_field ((fieldFits_iff _ _).mpr fits))⟩

/-- The word `RD12` writes denotes the field at the cursor (R95, R97). -/
theorem toInt_sext12_extract12 (m : Memory) (i : Nat) : (sext12 (extract12 m i)).toInt = signed12 (nibbleField m i) := by
  rw [toInt_sext12, toNat_extract12]

theorem nibbleField_lt (m : Memory) (i : Nat) : nibbleField m i < 4096 := toNat_extract12 m i ▸ (extract12 m i).isLt

/-! ## The words of the readers, and where `RDS` stands -/

/-- A word of R73 is its `op` field shifted above its `dest` field. -/
theorem append_eq_or_setWidth (op : BitVec 2) (d : BitVec 6) : op ++ d = (op ++ 0#6) ||| d.setWidth 8 := by
  have operand : d.setWidth 8 = 0#2 ++ d := BitVec.setWidth_eq_append (by decide)
  rw [operand, BitVec.or_append, BitVec.or_zero, BitVec.zero_or]

/-- `RDS` stands at one address of the program, the first (R115). -/
theorem program_rds_iff (o : CurveOrder) (a : Nat) : (program o)[a]? = some .rds ↔ a = 0 := by
  constructor
  · intro rds
    have inside : a < 69 := program_length o ▸ (List.getElem?_eq_some_iff.mp rds).1
    simpa [rds, shapeOk] using program_shape o ⟨a, inside⟩
  · rintro rfl
    rfl

/-- An address of `LROM` holds a micro-operation's word exactly where the program has the micro-operation. -/
theorem lromImage_eq_encode_iff {o : CurveOrder} {a : Nat} {i : Instr} (micro : i.level = .micro) (wf : i.wellFormed = true) :
    (lromImage o)[a]? = some (encode i) ↔ (program o)[a]? = some i := by
  have decodes := congrArg (fun l => l[a]?) (rom_decodes o)
  simp only [List.getElem?_map] at decodes
  constructor
  · intro word
    simpa [word, decodeUop_encode micro wf, eq_comm] using decodes
  · intro atA
    have image : (lromImage o)[a]? = (program o)[a]?.map encode := List.getElem?_map
    rw [image, atA, Option.map_some]

/-! ## The readers, one by one -/

/-- Settles O12: the effect is `exec_rdb_readInto`, the exactness is that of the scaled word. -/
theorem rdbScalesAByte : Obligations.RdbScalesAByte := by
  refine ⟨append_eq_or_setWidth 1#2, fun s d n dest legal => ⟨fun fits => ?_, exec_rdb_short (by omega)⟩⟩
  obtain ⟨t, ran, read⟩ := exec_rdb_readInto dest legal fits
  obtain ⟨low, high⟩ := scaledWord_range s.scale (Memory.read s.fb (s.cur.toNat / 2))
  refine ⟨t, ran, ?_, ?_, read.result ▸ low, read.result ▸ high, fun k _ => read.others k, read.cur, read.seq, read.scale,
    read.status, read.inputs⟩
  · exact read.result.trans (scaledWord_toInt _ _)
  · exact read.result ▸ scaledWord_over_unit _ _

/-- Settles O13: the effect is `exec_rd12_readInto`, the value that of the field at the cursor. -/
theorem rd12ReadsASignedField : Obligations.Rd12ReadsASignedField := by
  refine ⟨append_eq_or_setWidth 2#2, fun s d n dest legal => ⟨fun fits => ?_, exec_rd12_short (by omega)⟩⟩
  obtain ⟨t, ran, read⟩ := exec_rd12_readInto dest legal fits
  have value : t.q n = signed12 (nibbleField s.fb s.cur.toNat) := read.result.trans (toInt_sext12_extract12 _ _)
  obtain ⟨low, high⟩ := signed12_range (nibbleField_lt s.fb s.cur.toNat)
  exact ⟨t, ran, value, value ▸ low, value ▸ high, fun k _ => read.others k, read.cur, read.seq, read.scale, read.status,
    read.inputs⟩

/-- Settles O14: (a) the three nibbles are the pattern `n mod 4096` that denotes `n`, (b) is the scaled word. -/
theorem fieldRoundTrips : Obligations.FieldRoundTrips := by
  constructor
  · intro s d k n dest legal low high fits first second third
    obtain ⟨t, ran, read⟩ := exec_rd12_readInto dest legal fits
    have pattern : (nibbleField s.fb s.cur.toNat : Int) = n % 4096 := by
      rw [nibbleField]
      omega
    refine ⟨t, ran, ?_⟩
    calc t.q k = signed12 (nibbleField s.fb s.cur.toNat) := read.result.trans (toInt_sext12_extract12 _ _)
      _ = n := signed12_of_emod low high pattern
  · intro s d k dest legal fits
    obtain ⟨t, ran, read⟩ := exec_rdb_readInto dest legal fits
    refine ⟨t, ran, ?_, read.result ▸ scaledWord_over_unit _ _⟩
    rw [read.result, scaledWord_toInt, mul_assoc, wireByte]

/-- Settles O10: where the field fits, `RD12` completes and moves `CUR` on, which `BufferTooShort` does not. -/
theorem packedReadBound : Obligations.PackedReadBound := by
  intro s d legal
  refine ⟨by omega, fun failed => ?_, exec_rd12_short (by omega)⟩
  by_contra fits
  obtain ⟨t, ran, read⟩ := exec_rd12_readInto (s := s) rfl legal (by omega)
  have same : t = bufferTooShort s := Host.Outcome.next.inj (ran.symm.trans failed)
  have moved : s.cur.toNat = s.cur.toNat + 3 := by simpa [same] using read.cur
  omega

/-- Settles O11: the effect by `exec_rds_fits`; with `SCALE` = 0 the product of `RDB` is 0. -/
theorem rdsReadsTheScaleByte : Obligations.RdsReadsTheScaleByte := by
  refine ⟨rfl, fun o a => ?_, fun s fits => ?_, fun s => exec_rds_short, fun s d n dest legal zero fits => ?_⟩
  · exact (lromImage_eq_encode_iff (i := .rds) rfl rfl).trans (program_rds_iff o a)
  · exact ⟨_, exec_rds_fits fits, rfl, cur_after_byte ((byteFits_iff _ _).mpr fits), rfl, rfl, ⟨rfl, rfl, rfl, rfl, rfl, rfl⟩,
      inputsKept_of_frame rfl⟩
  · obtain ⟨t, ran, read⟩ := exec_rdb_readInto dest legal fits
    exact ⟨t, ran, by rw [read.result, scaledWord_toInt, zero]; simp⟩

/-! ## No byte at or above LEN (R99) -/

/-- The field depends on the byte of its first nibble and the next byte alone. -/
theorem extract12_congr {m m' : Memory} {i : Nat} (first : Memory.read m (i / 2) = Memory.read m' (i / 2))
    (second : Memory.read m (i / 2 + 1) = Memory.read m' (i / 2 + 1)) : extract12 m i = extract12 m' i := by
  rw [extract12, extract12, byteOf, first, second]

/-- A byte read whose effect does not look at the frame buffer itself looks at no byte at or above `LEN`. -/
theorem readByteField_congr {k : Byte → State → State} {s : State} {m : Memory}
    (blind : ∀ b, k b { s with fb := m } = { k b s with fb := m })
    (agree : ∀ a : Nat, a < s.len.toNat → Memory.read m a = Memory.read s.fb a) :
    readByteField k { s with fb := m } = { readByteField k s with fb := m } := by
  cases fits : byteFits s.cur.toNat s.len.toNat with
  | false => rw [readByteField_short fits, readByteField_short (s := { s with fb := m }) fits]; rfl
  | true =>
    have same : Memory.read m (byteOf s.cur.toNat) = Memory.read s.fb (byteOf s.cur.toNat) :=
      agree _ ((byteFits_iff _ _).mp fits)
    rw [readByteField_fits fits, readByteField_fits (s := { s with fb := m }) fits, same, blind]
    rfl

/-- As for a byte read, with both bytes of the field below `LEN`. -/
theorem readPackedField_congr {k : BitVec 12 → State → State} {s : State} {m : Memory}
    (blind : ∀ u, k u { s with fb := m } = { k u s with fb := m })
    (agree : ∀ a : Nat, a < s.len.toNat → Memory.read m a = Memory.read s.fb a) :
    readPackedField k { s with fb := m } = { readPackedField k s with fb := m } := by
  cases fits : fieldFits s.cur.toNat s.len.toNat with
  | false => rw [readPackedField_short fits, readPackedField_short (s := { s with fb := m }) fits]; rfl
  | true =>
    have bound := (fieldFits_iff _ _).mp fits
    have same : extract12 m s.cur.toNat = extract12 s.fb s.cur.toNat :=
      extract12_congr (agree _ (by omega)) (agree _ (by omega))
    rw [readPackedField_fits fits, readPackedField_fits (s := { s with fb := m }) fits, same, blind]
    rfl

/-- `RDB` with a legal destination is a byte read. -/
theorem exec_rdb_legal (s : State) {d : BitVec 6} (legal : d.toNat < 39) :
    exec (.rdb d) s = .next (readByteField (fun b t => t.setResult ⟨d.toNat, legal⟩ (scaledWord t.scale b)) s) := by
  rw [exec, execRdb, withDestination_ok legal]

/-- `RD12` with a legal destination is a 12-bit read. -/
theorem exec_rd12_legal (s : State) {d : BitVec 6} (legal : d.toNat < 39) :
    exec (.rd12 d) s = .next (readPackedField (fun u t => t.setResult ⟨d.toNat, legal⟩ (sext12 u)) s) := by
  rw [exec, execRd12, withDestination_ok legal]

/-- Settles O15: each reader is one of the two reads, with an effect that does not look at the frame buffer. -/
theorem noReadAtOrAboveLen : Obligations.NoReadAtOrAboveLen := by
  rintro s m i (rfl | ⟨d, rfl⟩ | ⟨d, rfl⟩) wf agree
  · exact ⟨_, rfl, congrArg Host.Outcome.next (readByteField_congr (fun _ => rfl) agree)⟩
  · have legal : d.toNat < 39 := of_decide_eq_true wf
    exact ⟨_, exec_rdb_legal s legal,
      (exec_rdb_legal _ legal).trans (congrArg Host.Outcome.next (readByteField_congr (fun _ => rfl) agree))⟩
  · have legal : d.toNat < 39 := of_decide_eq_true wf
    exact ⟨_, exec_rd12_legal s legal,
      (exec_rd12_legal _ legal).trans (congrArg Host.Outcome.next (readPackedField_congr (fun _ => rfl) agree))⟩

end Sys2Proof.Machine
end

section
/-! PROOFS. The words of `LROM` (R113), and which frames are too short for a layout (R118, R120, R171). -/

namespace Sys2Proof.Machine

/-! ## The words of the three programs (R113, R115 to R117) -/

theorem lromImage_eq_append (o : CurveOrder) :
    lromImage o = programL22.map encode ++ programL21.map encode ++ (programL10 o).map encode := by
  rw [lromImage, List.map_append, List.map_append]

theorem map_encode_programL22 :
    programL22.map encode =
      [0x00#8, 0x40#8, 0x41#8, 0x42#8, 0x4D#8, 0x4E#8, 0x4F#8, 0x5A#8, 0x5B#8, 0x5C#8, 0x5E#8, 0x5F#8, 0x60#8, 0x61#8,
        0x62#8, 0x63#8, 0x64#8, 0x65#8, 0x66#8, 0xC0#8, 0xC1#8] := by
  decide

theorem map_encode_programL21 :
    programL21.map encode =
      [0x9A#8, 0x9B#8, 0x9C#8, 0x9E#8, 0x9F#8, 0xA0#8, 0xA1#8, 0xA2#8, 0xA3#8, 0xA4#8, 0xA5#8, 0xA6#8, 0xC0#8,
        0xC1#8] := by
  decide

/-- The blocks of the Z, A and C curve in the default order, then `END`. -/
theorem map_encode_programL10_zac :
    (programL10 .zac).map encode =
      [0x9E#8, 0x9F#8, 0xA0#8, 0xA1#8, 0xA2#8, 0xA3#8, 0xA4#8, 0xA5#8, 0xA6#8, 0x9D#8, 0x9C#8]
      ++ [0x84#8, 0x85#8, 0x86#8, 0x87#8, 0x88#8, 0x89#8, 0x8A#8, 0x8B#8, 0x8C#8, 0x83#8, 0x82#8]
      ++ [0x91#8, 0x92#8, 0x93#8, 0x94#8, 0x95#8, 0x96#8, 0x97#8, 0x98#8, 0x99#8, 0x90#8, 0x8F#8, 0xC1#8] := by
  decide

/-- Settles O20: the image is the three programs' words end to end. -/
theorem romContents : Obligations.RomContents := by
  rw [Obligations.RomContents, lromImage_eq_append, map_encode_programL22, map_encode_programL21,
    map_encode_programL10_zac]
  simp only [List.append_assoc]

/-! ## The constants of a layout, format by format -/

@[simp] theorem leastLength_22 : leastLength 22#8 = 19 := rfl
@[simp] theorem leastLength_21 : leastLength 21#8 = 18 := rfl
@[simp] theorem leastLength_10 : leastLength 10#8 = 50 := rfl

@[simp] theorem toNat_lend_22 : (lend 22#8).toNat = 0x14 := rfl
@[simp] theorem toNat_lend_21 : (lend 21#8).toNat = 0x22 := rfl
@[simp] theorem toNat_lend_10 : (lend 10#8).toNat = 0x44 := rfl

theorem programPoint_22 {seq cur : Nat} : programPoint 22#8 seq cur ↔ seq ≤ 0x14 ∧ cur = 2 * min seq 19 := by
  simp [programPoint]

theorem programPoint_21 {seq cur : Nat} :
    programPoint 21#8 seq cur ↔ 0x15 ≤ seq ∧ seq ≤ 0x22 ∧ cur = 3 * min (seq - 0x15) 12 := by
  simp [programPoint]

theorem programPoint_10 {seq cur : Nat} :
    programPoint 10#8 seq cur ↔ 0x23 ≤ seq ∧ seq ≤ 0x44 ∧ cur = 3 * (seq - 0x23) := by
  simp [programPoint]

/-- Only the three recognised formats have a program. -/
theorem format_of_programPoint {f : Byte} {seq cur : Nat} (point : programPoint f seq cur) :
    f = 22#8 ∨ f = 21#8 ∨ f = 10#8 :=
  point.imp And.left (Or.imp And.left And.left)

theorem lacksByte_22 {s : State} (f : s.fmt = 22#8) :
    s.lacksByte ↔ s.seq.toNat ≤ 0x12 ∧ s.len.toNat < s.seq.toNat + 1 := by
  simp [State.lacksByte, f]

theorem lacksByte_21 {s : State} (f : s.fmt = 21#8) :
    s.lacksByte ↔ s.seq.toNat ≤ 0x20 ∧ s.len.toNat < 3 * (s.seq.toNat - 0x15) / 2 + 2 := by
  simp [State.lacksByte, f]

theorem lacksByte_10 {s : State} (f : s.fmt = 10#8) :
    s.lacksByte ↔ s.seq.toNat ≤ 0x43 ∧ s.len.toNat < 3 * (s.seq.toNat - 0x23) / 2 + 2 := by
  simp [State.lacksByte, f]

/-- A program never stands behind its `END`. -/
theorem seq_le_lend {f : Byte} {seq cur : Nat} (point : programPoint f seq cur) : seq ≤ (lend f).toNat := by
  rcases point with ⟨rfl, h⟩ | ⟨rfl, h⟩ | ⟨rfl, h⟩
  · rw [toNat_lend_22]; omega
  · rw [toNat_lend_21]; omega
  · rw [toNat_lend_10]; omega

/-- `START` puts `SEQ` on the first word of the layout's program and `CUR` on its first nibble (R112, R141). -/
theorem programPoint_lbase {f : Byte} (known : recognised f = true) : programPoint f (lbase f).toNat 0 := by
  rcases (recognised_iff f).mp known with rfl | rfl | rfl
  · exact .inl ⟨rfl, by decide, by decide⟩
  · exact .inr (.inl ⟨rfl, by decide, by decide, by decide⟩)
  · exact .inr (.inr ⟨rfl, by decide, by decide, by decide⟩)

/-- A program is as long as its step bound (R143): the last step runs `END`. -/
theorem lend_lt_lbase_add_stepBound {f : Byte} (known : recognised f = true) :
    (lend f).toNat < (lbase f).toNat + stepBound f := by
  rcases (recognised_iff f).mp known with rfl | rfl | rfl <;> decide

/-! ## The reads against `REQ` (R120)

The nibbles that the completed reads consumed are those below `CUR`, so `CUR ≤ 2 · LEN` says that every read so far found its
bytes, and at `END` it says `REQ(FMT) ≤ LEN`. -/

/-- No read needs more than `REQ(FMT)` bytes. -/
theorem lt_leastLength_of_lacksByte {s : State} (lacks : s.lacksByte) : s.len.toNat < leastLength s.fmt := by
  rcases lacks with ⟨f, h⟩ | ⟨f, h⟩ | ⟨f, h⟩
  · rw [f, leastLength_22]; omega
  · rw [f, leastLength_21]; omega
  · rw [f, leastLength_10]; omega

/-- The reads of a whole program need `REQ(FMT)` bytes. -/
theorem leastLength_le_of_consumed {s : State} (point : programPoint s.fmt s.seq.toNat s.cur.toNat)
    (ended : s.seq = lend s.fmt) (consumed : s.cur.toNat ≤ 2 * s.len.toNat) : leastLength s.fmt ≤ s.len.toNat := by
  have last : s.seq.toNat = (lend s.fmt).toNat := congrArg BitVec.toNat ended
  rcases point with ⟨f, h⟩ | ⟨f, h⟩ | ⟨f, h⟩
  · rw [f, toNat_lend_22] at last; rw [f, leastLength_22]; omega
  · rw [f, toNat_lend_21] at last; rw [f, leastLength_21]; omega
  · rw [f, toNat_lend_10] at last; rw [f, leastLength_10]; omega

/-- Where the read at `SEQ` does not lack a byte, the next point of the program still lies inside the frame. -/
theorem consumed_of_not_lacksByte {s : State} {cur : Nat} (point : programPoint s.fmt s.seq.toNat s.cur.toNat)
    (enough : ¬ s.lacksByte) (consumed : s.cur.toNat ≤ 2 * s.len.toNat)
    (next : programPoint s.fmt (s.seq.toNat + 1) cur) : cur ≤ 2 * s.len.toNat := by
  rcases format_of_programPoint point with f | f | f
  · rw [f, programPoint_22] at point next
    rw [lacksByte_22 f] at enough
    omega
  · rw [f, programPoint_21] at point next
    rw [lacksByte_21 f] at enough
    omega
  · rw [f, programPoint_10] at point next
    rw [lacksByte_10 f] at enough
    omega

/-! ## A running decode -/

/-- A decode that runs undisturbed, with the bytes of its reads so far inside the frame. -/
structure Running (s : State) : Prop where
  rom : s.lrom = lromImage s.order
  enabled : s.sequencerEnabled = true
  idleHost : s.host = []
  point : programPoint s.fmt s.seq.toNat s.cur.toNat
  noError : s.err = false
  consumed : s.cur.toNat ≤ 2 * s.len.toNat

/-- `START` of a recognised format begins such a decode. -/
theorem running_beginDecode {s : State} (inv : Inv s) (quiet : s.undisturbed) (known : recognised s.fmt = true) :
    Running (beginDecode s) where
  rom := inv.rom
  enabled := by simp [State.sequencerEnabled, quiet.2]
  idleHost := quiet.1
  point := programPoint_lbase known
  noError := rfl
  consumed := Nat.zero_le _

/-- A micro-operation that completes leaves the decode running, with its inputs. -/
theorem Running.of_progress {s t : State} (running : Running s) (enough : ¬ s.lacksByte) (progress : Progress s t) :
    Running t ∧ t.fmt = s.fmt ∧ t.len = s.len := by
  have point := progress.point
  have consumed := consumed_of_not_lacksByte running.point enough running.consumed (progress.seq ▸ point)
  rw [progress.frame]
  exact ⟨⟨running.rom, running.enabled, running.idleHost, point, running.noError, consumed⟩, rfl, rfl⟩

/-- A step after which the block is idle and the host has nothing pending ends the run. -/
theorem run_of_last_step {s t : State} (k : Nat) (last : step s = .next t) (idleHost : t.host = []) (idle : t.busy = false) :
    run (k + 1) s = .next t :=
  (run_succ k last).trans (run_idle idleHost idle k)

/-- A running decode ends within the steps that its program has left: at a read that lacks a byte, or at `END`. -/
theorem Running.run_ends {k : Nat} {s : State} (running : Running s) (fuel : (lend s.fmt).toNat < s.seq.toNat + k) :
    ∃ u, Running u ∧ u.fmt = s.fmt ∧ u.len = s.len
      ∧ ((u.lacksByte ∧ run k s = .next (bufferTooShort u))
        ∨ (u.seq = lend u.fmt ∧ run k s = .next (publish u.fmt u))) := by
  induction k generalizing s with
  | zero =>
    have := seq_le_lend running.point
    omega
  | succ k ih =>
    have turn := step_undisturbed running.idleHost
    rcases sequencerTurn_cases running.rom running.enabled running.point with
      ⟨lacks, short⟩ | ⟨enough, -, t, ran, progress⟩ | ⟨-, ended, published⟩
    · exact ⟨s, running, rfl, rfl, .inl ⟨lacks, run_of_last_step k (turn.trans short) running.idleHost rfl⟩⟩
    · obtain ⟨still, fmt, len⟩ := running.of_progress enough progress
      have left : (lend t.fmt).toNat < t.seq.toNat + k := by rw [fmt, progress.seq]; omega
      obtain ⟨u, last, fmtLast, lenLast, ends⟩ := ih still left
      rw [run_succ k (turn.trans ran)]
      exact ⟨u, last, fmtLast.trans fmt, lenLast.trans len, ends⟩
    · exact ⟨s, running, rfl, rfl, .inr ⟨ended, run_of_last_step k (turn.trans published) running.idleHost rfl⟩⟩

/-- The outcome of a decode of a recognised format: it is done within its step bound, with an error exactly where the frame is
shorter than `REQ(FMT)`. -/
theorem run_start_err_iff {s : State} (inv : Inv s) (quiet : s.undisturbed) (idle : s.busy = false)
    (known : recognised s.fmt = true) :
    ∃ t, run (stepBound s.fmt) (start s) = .next t ∧ t.done = true
      ∧ (t.err = true ↔ s.len.toNat < leastLength s.fmt) := by
  rw [start_recognised idle known]
  obtain ⟨u, running, fmt, len, ⟨lacks, ran⟩ | ⟨ended, ran⟩⟩ :=
    (running_beginDecode inv quiet known).run_ends (lend_lt_lbase_add_stepBound known)
  · have short := lt_leastLength_of_lacksByte lacks
    rw [fmt, len] at short
    exact ⟨_, ran, rfl, iff_of_true rfl short⟩
  · have long := leastLength_le_of_consumed running.point ended running.consumed
    rw [fmt, len] at long
    refine ⟨_, ran, rfl, iff_of_false ?_ (Nat.not_lt.mpr long)⟩
    rw [publish_err, running.noError]
    exact Bool.false_ne_true

/-! ## Which step raises `BufferTooShort` -/

/-- A step of a running decode raises it exactly at a read that lacks a byte: a completed micro-operation moves `SEQ` on, and
`END` leaves `ERR` at 0. -/
theorem step_eq_bufferTooShort_iff {s : State} (inv : Inv s) (quiet : s.undisturbed) (busy : s.busy = true) :
    step s = .next (bufferTooShort s) ↔ s.lacksByte := by
  obtain ⟨idleHost, released⟩ := quiet
  have on : s.sequencerEnabled = true := by simp [State.sequencerEnabled, busy, released]
  rw [step_undisturbed idleHost]
  rcases sequencerTurn_cases inv.rom on (inv.inProgram busy) with
    ⟨lacks, short⟩ | ⟨enough, -, t, ran, progress⟩ | ⟨enough, -, published⟩
  · exact iff_of_true short lacks
  · refine iff_of_false (fun failed => ?_) enough
    have same : t = bufferTooShort s := Host.Outcome.next.inj (ran.symm.trans failed)
    have moved : s.seq.toNat = s.seq.toNat + 1 := by simpa [same] using progress.seq
    omega
  · refine iff_of_false (fun failed => ?_) enough
    have same : publish s.fmt s = bufferTooShort s := Host.Outcome.next.inj (published.symm.trans failed)
    have raised : s.err = true := congrArg State.err same
    have clear := (inv.nothingYet (inv.busyNotDone busy)).1
    exact absurd raised (by simp [clear])

/-- Settles O49: the finished run by `run_start_err_iff` at each format's constants, the single step by
`step_eq_bufferTooShort_iff`. -/
theorem shortFramesFailAndOnlyThey : Obligations.ShortFramesFailAndOnlyThey := by
  refine ⟨fun s inv quiet idle => ?_, fun s => step_eq_bufferTooShort_iff⟩
  have outcome := run_start_err_iff inv quiet idle
  refine ⟨fun f => ?_, fun f => ?_, fun f => ?_⟩ <;>
  · rw [f] at outcome
    exact outcome rfl

end Sys2Proof.Machine
end

section
/-! PROOFS. The weighter: the eighteen additions of `WGT` (R132), and why none of them wraps (R135, R136). -/

namespace Sys2Proof.Machine

/-! ## The registers after `WGT` (R132) -/

theorem word_setResults_ofFn_advance (s : State) (f : Fin 39 → Word) (k : Nat) {n : Nat} (h : n < 39) :
    ((s.setResults (Vector.ofFn f)).advance k).word n = f ⟨n, h⟩ := by
  rw [word_advance, word_eq_getResult _ h, State.getResult, setResults_r, Vector.getElem_ofFn]

theorem word_eq_getElem_r (s : State) {n : Nat} (h : n < 39) : s.word n = s.r[n] :=
  word_eq_getResult s h

/-- Outside the results, a step that writes them all at once and consumes no nibble moves `SEQ` only, whatever the words are. -/
theorem setResults_advance_frame (s : State) (v : Vector Word 39) :
    let t := (s.setResults v).advance 0
    t.cur = s.cur ∧ t.seq = s.seq + 1#7 ∧ t.scale = s.scale ∧ StatusKept s t ∧ InputsKept s t :=
  ⟨BitVec.add_zero s.cur, rfl, rfl, ⟨rfl, rfl, rfl, rfl, rfl, rfl⟩, inputsKept_of_frame rfl⟩

/-- Settles O17: the step is `exec_wgt_next`, each register is one branch of `weightedWord`, and the frame does not depend on
the words written. -/
theorem wgtAddsTheOffsets : Obligations.WgtAddsTheOffsets := by
  refine ⟨rfl, fun s => ⟨_, exec_wgt_next s, fun k band => ⟨?_, ?_⟩, fun n legal notA notC => ?_, ?_⟩⟩
  · rw [word_setResults_ofFn_advance s _ 0 (by omega), word_eq_getElem_r s (by omega)]
    exact weightedWord_a band
  · rw [word_setResults_ofFn_advance s _ 0 (by omega), word_eq_getElem_r s (by omega)]
    exact weightedWord_c band
  · rw [word_setResults_ofFn_advance s _ 0 (by omega), word_eq_getElem_r s (by omega)]
    exact weightedWord_other notA notC
  · exact setResults_advance_frame s _

/-! ## The additions as integers (R135, R136) -/

/-- A 32-bit addition whose mathematical sum fits 32 bits is that sum. -/
theorem toInt_add_ofInt {w : Word} {d : Int} (low : -2 ^ 31 ≤ w.toInt + d) (high : w.toInt + d < 2 ^ 31) :
    (w + BitVec.ofInt 32 d).toInt = w.toInt + d := by
  rw [BitVec.toInt_add, BitVec.toInt_ofInt, Int.add_bmod_bmod]
  exact Int.bmod_eq_of_le low high

/-- The least and the greatest entry of the table of R130. -/
theorem offsetsA_range : ∀ k ≤ 8, -394 ≤ offsetsA.getD k 0 ∧ offsetsA.getD k 0 ≤ 12 := by decide

/-- The least and the greatest entry of the table of R131. -/
theorem offsetsC_range : ∀ k ≤ 8, -30 ≤ offsetsC.getD k 0 ∧ offsetsC.getD k 0 ≤ 3 := by decide

/-- Settles O18: in both units the tables' extremes keep the two sums of a band far inside 32 bits, so the additions of O17 are
those of the integers (`toInt_add_ofInt`). -/
theorem weightingPropertyOverIntegers : Obligations.WeightingPropertyOverIntegers := by
  intro s ranges
  obtain ⟨t, ran, additions, -⟩ := wgtAddsTheOffsets.2 s
  refine ⟨t, ran, fun k band => ?_⟩
  obtain ⟨addA, addC⟩ := additions k band
  have range := ranges k band
  have rangeA := offsetsA_range k band
  have rangeC := offsetsC_range k band
  simp only [State.q] at range ⊢
  rw [addA, addC]
  split_ifs at range ⊢ <;>
  · rw [toInt_add_ofInt (by omega) (by omega), toInt_add_ofInt (by omega) (by omega)]
    omega

end Sys2Proof.Machine
end

section
/-! PROOFS. `START`, the warning-only command and `END` (R141, R147, R153), and that every decode terminates (R143). -/

namespace Sys2Proof.Machine

/-! ## START through the host port (R20, R141) -/

/-- A pending host write is the whole step, whatever the sequencer was doing. -/
theorem step_write {s : State} {n : BitVec 8} {v : Word} {rest : List HostOp} (h : s.host = .write n v :: rest) :
    step s = .next (portWrite n v { s with host := rest }) := by
  rw [step, turn, h]

/-- Writing 1 to bit 0 of `CTRL` outside reset is `START`, which does nothing while busy. -/
theorem portWrite_ctrl {s : State} {v : Word} (released : s.resetIn = false) (bit : v.getLsbD 0 = true) :
    portWrite 0x82#8 v s = start s := by
  cases busy : s.busy with
  | true => rw [portWrite_busy busy, start_busy busy]
  | false => simp [portWrite, released, writeRegister, busy, bit, regLEN, regFMT, regCTRL]

theorem inputsKept_beginDecode (s : State) : InputsKept s (beginDecode s) := inputsKept_of_frame rfl

theorem inputsKept_warnUnrecognised (s : State) : InputsKept s (warnUnrecognised s) := inputsKept_of_frame rfl

theorem recognised_eq_false {f : Byte} (n22 : f ≠ 22#8) (n21 : f ≠ 21#8) (n10 : f ≠ 10#8) : recognised f = false := by
  simp [recognised, n22, n21, n10]

theorem unrecognised_ne {f : Byte} (unknown : recognised f = false) : f ≠ 22#8 ∧ f ≠ 21#8 ∧ f ≠ 10#8 := by
  refine ⟨?_, ?_, ?_⟩ <;> rintro rfl <;> cases unknown

/-- Settles O33: the write is `START` (`portWrite_ctrl`), which begins the program of a recognised format and warns of any
other. -/
theorem startBeginsOrWarns : Obligations.StartBeginsOrWarns := by
  intro s rest v pending released bit
  have ran : step s = .next (start { s with host := rest }) :=
    (step_write pending).trans (congrArg Host.Outcome.next (portWrite_ctrl released bit))
  refine ⟨fun busy => ran.trans (congrArg Host.Outcome.next (start_busy busy)), fun idle => ⟨_, ran, ?_⟩⟩
  cases known : recognised s.fmt with
  | true =>
    have format := (recognised_iff s.fmt).mp known
    rw [start_recognised (s := { s with host := rest }) idle known]
    refine ⟨rfl, rfl, rfl, rfl, rfl, fun f => congrArg lbase f, fun f => congrArg lbase f, fun f => congrArg lbase f,
      fun _ => ⟨rfl, rfl, rfl⟩, fun n22 n21 n10 => ?_, rfl, rfl, inputsKept_beginDecode _⟩
    simp [n22, n21, n10] at format
  | false =>
    obtain ⟨n22, n21, n10⟩ := unrecognised_ne known
    rw [start_unrecognised (s := { s with host := rest }) idle known]
    refine ⟨rfl, rfl, rfl, rfl, rfl, fun f => absurd f n22, fun f => absurd f n21, fun f => absurd f n10,
      fun format => ?_, fun _ _ _ => ⟨idle, rfl, rfl, rfl⟩, rfl, rfl, inputsKept_warnUnrecognised _⟩
    simp [n22, n21, n10] at format

/-! ## The warning-only command (R153) -/

theorem exec_decnop_idle (f : Byte) {s : State} (idle : s.busy = false) :
    exec (.decnop f) s = .next (warnUnrecognised s) := by
  simp [exec, execDecnop, idle]

/-- Settles O27: an idle `DECNOP` is the warning outcome, which commutes with any change of `FB` and `LEN`. -/
theorem decnopWarnsAndReadsNothing : Obligations.DecnopWarnsAndReadsNothing := by
  obtain ⟨-, -, -, others⟩ := commandOpcodeMap
  refine ⟨fun s f idle => ⟨_, exec_decnop_idle f idle, ?_⟩, fun f n22 n21 n10 => ⟨rfl, others f n22 n21 n10⟩⟩
  exact ⟨rfl, rfl, rfl, idle, rfl, rfl, rfl, rfl, rfl, inputsKept_warnUnrecognised s,
    fun m l => exec_decnop_idle f (s := { s with fb := m, len := l }) idle⟩

/-! ## END (R147) -/

/-- `END` stands at the last address of each program (R115 to R117). -/
theorem program_endOp_iff (o : CurveOrder) (a : Nat) :
    (program o)[a]? = some .endOp ↔ a = 0x14 ∨ a = 0x22 ∨ a = 0x44 := by
  constructor
  · intro ended
    have inside : a < 69 := program_length o ▸ (List.getElem?_eq_some_iff.mp ended).1
    simpa [ended, shapeOk, or_assoc] using program_shape o ⟨a, inside⟩
  · rintro (rfl | rfl | rfl) <;> cases o <;> rfl

theorem inputsKept_publish (f : Byte) (s : State) : InputsKept s (publish f s) := inputsKept_of_frame rfl

/-- Settles O19: `END` is `publish`; that nothing was visible before it is the invariant of a busy block. -/
theorem endPublishesTheResults : Obligations.EndPublishesTheResults := by
  refine ⟨rfl, fun o a => ?_, fun s => ⟨_, exec_end_next s, ?_⟩⟩
  · exact (lromImage_eq_encode_iff (i := .endOp) rfl rfl).trans (program_endOp_iff o a)
  · refine ⟨fun f => congrArg presenceMask f, fun f => congrArg presenceMask f, fun f => congrArg presenceMask f, rfl, rfl, rfl,
      rfl, rfl, rfl, rfl, rfl, rfl, inputsKept_publish _ s, fun inv busy => ?_⟩
    obtain ⟨err, warn, present, -⟩ := inv.nothingYet (inv.busyNotDone busy)
    exact ⟨present, err, warn⟩

/-! ## Termination (R143) -/

/-- A decode of a recognised format ends within its step bound. -/
theorem run_start_ends {s : State} {bound : Nat} (inv : Inv s) (quiet : s.undisturbed) (idle : s.busy = false)
    (known : recognised s.fmt = true) (within : stepBound s.fmt ≤ bound) :
    ∃ k t, k ≤ bound ∧ run k (start s) = .next t ∧ t.busy = false ∧ t.done = true := by
  rw [start_recognised idle known]
  obtain ⟨u, -, -, -, ⟨-, ran⟩ | ⟨-, ran⟩⟩ :=
    (running_beginDecode inv quiet known).run_ends (lend_lt_lbase_add_stepBound known)
  · exact ⟨_, _, within, ran, rfl, rfl⟩
  · exact ⟨_, _, within, ran, rfl, rfl⟩

/-- A busy block outside reset is inside its program, where every sequencer turn answers a next state. -/
theorem sequencerTurn_of_busy {s : State} (inv : Inv s) (released : s.resetIn = false) (busy : s.busy = true) :
    ∃ t, sequencerTurn s = .next t := by
  have on : s.sequencerEnabled = true := by simp [State.sequencerEnabled, busy, released]
  rcases sequencerTurn_cases inv.rom on (inv.inProgram busy) with ⟨-, short⟩ | ⟨-, -, t, ran, -⟩ | ⟨-, -, published⟩
  · exact ⟨_, short⟩
  · exact ⟨t, ran⟩
  · exact ⟨_, published⟩

/-- Settles O48: the bounds are `stepBound` at each format, and an unrecognised one is over at `START`. -/
theorem everyDecodeTerminates : Obligations.EveryDecodeTerminates := by
  refine ⟨fun s inv quiet idle => ?_, fun s => sequencerTurn_of_busy⟩
  have ends := fun b => run_start_ends (bound := b) inv quiet idle
  refine ⟨fun f => ends 21 ?_ ?_, fun f => ends 14 ?_ ?_, fun f => ends 34 ?_ ?_, fun n22 n21 n10 => ?_⟩
  case refine_7 =>
    rw [start_unrecognised idle (recognised_eq_false n22 n21 n10)]
    exact ⟨idle, rfl⟩
  all_goals
    rw [f]
    decide

end Sys2Proof.Machine
end

section
/-! PROOFS. The decoding commands: what each format makes of a frame, and its range (R150 to R152). -/

namespace Sys2Proof.Machine

/-! ## The registers of a curve (R11, R12) -/

/-- Register 13 · c + t is slot `t` of curve `c`. -/
theorem div_of_slot (c : Curve) {t : Nat} (h : t < 13) : (13 * curveNumber c + t) / 13 = curveNumber c := by omega

theorem mod_of_slot (c : Curve) {t : Nat} (h : t < 13) : (13 * curveNumber c + t) % 13 = t := by omega

theorem curveOf_slot (c : Curve) {t : Nat} (h : t < 13) : curveOf (13 * curveNumber c + t) = c := by
  rw [curveOf, div_of_slot c h]
  cases c <;> rfl

theorem curveNumber_le (c : Curve) : curveNumber c ≤ 2 := by cases c <;> decide

/-! ## The results of each format (R150 to R152) -/

theorem value22_summary (m : Memory) (c : Curve) {j : Nat} (h : j ≤ 2) :
    value22 m (13 * curveNumber c + j) = some (2 * wireByte m 0 * wireByte m (1 + 3 * curveNumber c + j)) := by
  rw [value22, div_of_slot c (by omega), mod_of_slot c (by omega), if_pos (by omega)]
  rfl

theorem value22_band (m : Memory) (c : Curve) {k : Nat} (h : k ≤ 8) :
    value22 m (13 * curveNumber c + 4 + k)
      = some (2 * wireByte m 0 * wireByte m (10 + k) + 51 * curveOffset c k) := by
  rw [Nat.add_assoc, value22, mod_of_slot c (by omega), curveOf_slot c (by omega), if_neg (by omega), if_neg (by omega),
    Nat.add_sub_cancel_left]
  rfl

/-- Packed field `j`, read by the multiplexer and sign-extended, is the field of R61. -/
theorem packedField_eq (m : Memory) (j : Nat) : packedField m j = wireField m j := toInt_sext12_extract12 m (3 * j)

theorem value21_summary (m : Memory) {j : Nat} (h : j ≤ 2) : value21 m (26 + j) = some (wireField m j) := by
  have slot : (26 + j) % 13 = j := mod_of_slot .lz (by omega)
  have curve : curveOf (26 + j) = .lz := curveOf_slot .lz (by omega)
  rw [value21, slot, curve, if_pos (by omega), if_pos rfl, packedField_eq]

theorem value21_band (m : Memory) (c : Curve) {k : Nat} (h : k ≤ 8) :
    value21 m (13 * curveNumber c + 4 + k) = some (wireField m (3 + k) + curveOffset c k) := by
  rw [Nat.add_assoc, value21, mod_of_slot c (by omega), curveOf_slot c (by omega), if_neg (by omega), if_neg (by omega),
    Nat.add_sub_cancel_left, packedField_eq]

theorem value10_band (o : CurveOrder) (m : Memory) (c : Curve) {k : Nat} (h : k ≤ 8) :
    value10 o m (13 * curveNumber c + 4 + k) = some (wireField m (11 * orderPlace o c + k)) := by
  rw [Nat.add_assoc, value10, mod_of_slot c (by omega), curveOf_slot c (by omega), if_neg (by omega), if_neg (by omega),
    if_neg (by omega), Nat.add_sub_cancel_left, packedField_eq]

theorem value10_peak (o : CurveOrder) (m : Memory) (c : Curve) :
    value10 o m (13 * curveNumber c + 3) = some (wireField m (11 * orderPlace o c + 9)) := by
  rw [value10, mod_of_slot c (by omega), curveOf_slot c (by omega), ← packedField_eq]
  rfl

theorem value10_average (o : CurveOrder) (m : Memory) (c : Curve) :
    value10 o m (13 * curveNumber c + 2) = some (wireField m (11 * orderPlace o c + 10)) := by
  rw [value10, mod_of_slot c (by omega), curveOf_slot c (by omega), ← packedField_eq]
  rfl

/-- `orderPlace` is the inverse of `orderCurves` (R6, R117). -/
theorem orderPlace_of_getElem? {o : CurveOrder} {m : Nat} {c : Curve} (h : (orderCurves o)[m]? = some c) :
    orderPlace o c = m := by
  have inside : m < 3 := by
    have length : (orderCurves o).length = 3 := by cases o <;> rfl
    exact length ▸ (List.getElem?_eq_some_iff.mp h).1
  have all : ∀ place : Fin 3, ∀ curve ∈ (orderCurves o)[place.val]?, orderPlace o curve = place := by
    cases o <;> decide
  exact all ⟨m, inside⟩ c h

/-! ## No result wraps (R98, R135) -/

/-- An integer that a result register holds without wrapping. -/
def fitsWord (v : Int) : Prop := -2 ^ 31 ≤ v ∧ v < 2 ^ 31

theorem toInt_ofInt_of_fitsWord {v : Int} (h : fitsWord v) : (BitVec.ofInt 32 v).toInt = v := by
  rw [BitVec.toInt_ofInt]
  exact Int.bmod_eq_of_le h.1 h.2

theorem scaledByte_range (m : Memory) (a : Nat) :
    0 ≤ 2 * wireByte m 0 * wireByte m a ∧ 2 * wireByte m 0 * wireByte m a ≤ 130050 := by
  have range := scaledWord_range (Memory.read m 0) (Memory.read m a)
  rw [scaledWord_toInt, ← mul_assoc] at range
  exact range

theorem wireField_range (m : Memory) (j : Nat) : -2048 ≤ wireField m j ∧ wireField m j ≤ 2047 :=
  signed12_range (nibbleField_lt m (3 * j))

theorem curveOffset_range (c : Curve) {k : Nat} (h : k ≤ 8) : -394 ≤ curveOffset c k ∧ curveOffset c k ≤ 12 := by
  cases c with
  | la => exact offsetsA_range k h
  | lc =>
    obtain ⟨low, high⟩ : -30 ≤ curveOffset .lc k ∧ curveOffset .lc k ≤ 3 := offsetsC_range k h
    omega
  | lz => simp [curveOffset]

/-! ## The registers after a decode with data -/

theorem q_finishedDecode {f : Byte} {cur : BitVec 8} {scale : Byte} {q : Nat → Option Int} {s : State} {n : Nat} {v : Int}
    (legal : n ≤ 38) (value : q n = some v) (fits : fitsWord v) : (finishedDecode f cur scale q s).q n = v := by
  have word : (finishedDecode f cur scale q s).word n = BitVec.ofInt 32 v :=
    (word_eq_getElem_r _ (by omega)).trans (storeResults_some (by omega) value)
  rw [State.q, word, toInt_ofInt_of_fitsWord fits]

/-- A summary of a format-22 decode. -/
theorem q_summary22 (s : State) (cur : BitVec 8) (scale : Byte) (c : Curve) {j : Nat} (h : j ≤ 2) :
    (finishedDecode 22#8 cur scale (value22 s.fb) s).q (13 * curveNumber c + j)
      = 2 * wireByte s.fb 0 * wireByte s.fb (1 + 3 * curveNumber c + j) := by
  have := curveNumber_le c
  have := scaledByte_range s.fb (1 + 3 * curveNumber c + j)
  exact q_finishedDecode (by omega) (value22_summary s.fb c h) ⟨by omega, by omega⟩

/-- A band of a format-22 decode. -/
theorem q_band22 (s : State) (cur : BitVec 8) (scale : Byte) (c : Curve) {k : Nat} (h : k ≤ 8) :
    (finishedDecode 22#8 cur scale (value22 s.fb) s).q (13 * curveNumber c + 4 + k)
      = 2 * wireByte s.fb 0 * wireByte s.fb (10 + k) + 51 * curveOffset c k := by
  have := curveNumber_le c
  have := scaledByte_range s.fb (10 + k)
  have := curveOffset_range c h
  exact q_finishedDecode (by omega) (value22_band s.fb c h) ⟨by omega, by omega⟩

/-- A register of a packed format that holds a field of the frame as it stands. -/
theorem q_field {f : Byte} {cur : BitVec 8} {scale : Byte} {q : Nat → Option Int} {s : State} {n j : Nat}
    (legal : n ≤ 38) (value : q n = some (wireField s.fb j)) : (finishedDecode f cur scale q s).q n = wireField s.fb j := by
  have := wireField_range s.fb j
  exact q_finishedDecode legal value ⟨by omega, by omega⟩

/-- A band of a format-21 decode. -/
theorem q_band21 (s : State) (cur : BitVec 8) (scale : Byte) (c : Curve) {k : Nat} (h : k ≤ 8) :
    (finishedDecode 21#8 cur scale (value21 s.fb) s).q (13 * curveNumber c + 4 + k)
      = wireField s.fb (3 + k) + curveOffset c k := by
  have := curveNumber_le c
  have := wireField_range s.fb (3 + k)
  have := curveOffset_range c h
  exact q_finishedDecode (by omega) (value21_band s.fb c h) ⟨by omega, by omega⟩

/-! ## The three commands -/

theorem inputsKept_failedDecode (f : Byte) (s : State) : InputsKept s (failedDecode f s) := inputsKept_of_frame rfl

theorem inputsKept_finishedDecode (f : Byte) (cur : BitVec 8) (scale : Byte) (q : Nat → Option Int) (s : State) :
    InputsKept s (finishedDecode f cur scale q s) := inputsKept_of_frame rfl

/-- Settles O23: the registers by curve and slot (`q_summary22`, `q_band22`), the read that fails by `lacksByte_22`. -/
theorem dec22DecodesAScaledByteFrame : Obligations.Dec22DecodesAScaledByteFrame := by
  refine ⟨rfl, fun s idle short => ?_, fun s idle long => ?_, fun s inv quiet busy f => ?_⟩
  · exact ⟨_, congrArg Host.Outcome.next (decodeFrame_short (f := 22#8) idle short), rfl, rfl, rfl, rfl, rfl, rfl,
      inputsKept_failedDecode _ s⟩
  · refine ⟨_, congrArg Host.Outcome.next (decodeFrame_data (f := 22#8) idle long), rfl, rfl, rfl, rfl, rfl, rfl,
      fun j small => ⟨?_, q_summary22 s _ _ .lc small, q_summary22 s _ _ .lz small⟩,
      fun k band => ⟨?_, q_band22 s _ _ .la band, q_band22 s _ _ .lc band⟩, inputsKept_finishedDecode _ _ _ _ s⟩
    · simpa [curveNumber] using q_summary22 s 38#8 (Memory.read s.fb 0) .la small
    · simpa [curveNumber, curveOffset] using q_band22 s 38#8 (Memory.read s.fb 0) .lz band
  · rw [step_eq_bufferTooShort_iff inv quiet busy, lacksByte_22 f]
    omega

/-- Settles O24: the registers by curve and slot (`value21_summary`, `q_band21`), the read that fails by `lacksByte_21`. -/
theorem dec21DecodesAPackedSummaryFrame : Obligations.Dec21DecodesAPackedSummaryFrame := by
  refine ⟨rfl, fun s idle short => ?_, fun s idle long => ?_, fun s inv quiet busy f => ?_⟩
  · exact ⟨_, congrArg Host.Outcome.next (decodeFrame_short (f := 21#8) idle short), rfl, rfl, rfl, rfl, rfl, rfl,
      inputsKept_failedDecode _ s⟩
  · refine ⟨_, congrArg Host.Outcome.next (decodeFrame_data (f := 21#8) idle long), rfl, rfl, rfl, rfl, rfl, rfl,
      fun j small => q_field (by omega) (value21_summary s.fb small),
      fun k band => ⟨?_, q_band21 s _ _ .la band, q_band21 s _ _ .lc band⟩, inputsKept_finishedDecode _ _ _ _ s⟩
    simpa [curveNumber, curveOffset] using q_band21 s 36#8 s.scale .lz band
  · rw [step_eq_bufferTooShort_iff inv quiet busy, lacksByte_21 f]

/-- Settles O25: every present register holds one field of the frame, at the place that the order gives its curve. -/
theorem dec10DecodesAPackedPeakFrame : Obligations.Dec10DecodesAPackedPeakFrame := by
  refine ⟨rfl, fun s idle short => ?_, fun s idle long => ?_⟩
  · exact ⟨_, congrArg Host.Outcome.next (decodeFrame_short (f := 10#8) idle short), rfl, rfl, rfl, rfl, rfl, rfl,
      inputsKept_failedDecode _ s⟩
  · refine ⟨_, congrArg Host.Outcome.next (decodeFrame_data (f := 10#8) idle long), rfl, rfl, rfl, rfl, rfl, rfl,
      fun m c place => ?_, inputsKept_finishedDecode _ _ _ _ s⟩
    have := curveNumber_le c
    obtain rfl := orderPlace_of_getElem? place
    exact ⟨fun k band => q_field (by omega) (value10_band s.order s.fb c band),
      q_field (by omega) (value10_peak s.order s.fb c), q_field (by omega) (value10_average s.order s.fb c)⟩

end Sys2Proof.Machine
end

section
/-! PROOFS. What a frame gives each result register, said once for the three formats, and on which bytes of the frame that
depends (R120, R150 to R152, R155). -/

namespace Sys2Proof.Machine

/-! ## The result of a register -/

/-- The result `q` of register `n` in a decode of layout `f` (R150 to R152), none where it is absent. -/
def frameValue (f : Byte) (o : CurveOrder) (m : Memory) (n : Nat) : Option Int :=
  if f = 22#8 then value22 m n else if f = 21#8 then value21 m n else value10 o m n

theorem frameValue_21 (o : CurveOrder) : frameValue 21#8 o = value21 := rfl

/-- The command of a recognised format is the whole decode with these results. -/
theorem exec_decodeCommand {s : State} (known : recognised s.fmt = true) :
    ∃ cur scale, exec (decodeCommand s.fmt) s =
      .next (decodeFrame s.fmt cur scale (frameValue s.fmt s.order s.fb) s) := by
  rcases (recognised_iff s.fmt).mp known with f | f | f <;> rw [f]
  · exact ⟨_, _, rfl⟩
  · exact ⟨_, _, rfl⟩
  · exact ⟨_, _, rfl⟩

/-- The command of any other format is `DECNOP`. -/
theorem exec_decodeCommand_unrecognised {s : State} (idle : s.busy = false) (unknown : recognised s.fmt = false) :
    exec (decodeCommand s.fmt) s = .next (warnUnrecognised s) := by
  obtain ⟨n22, n21, n10⟩ := unrecognised_ne unknown
  rw [decodeCommand, if_neg n22, if_neg n21, if_neg n10, exec_decnop_idle _ idle]

/-! ## A result is one reading of the frame and an offset -/

/-- What a read of layout `f` makes of its place in the frame: the scaled byte `j` (R93), or packed field `j` (R96). -/
def reading (f : Byte) (m : Memory) (j : Nat) : Int :=
  if f = 22#8 then 2 * wireByte m 0 * wireByte m j else wireField m j

/-- The byte (format 22) or packed field (formats 21 and 10) from which register `n` takes its reading (R61 to R65). -/
def sourceOf (f : Byte) (o : CurveOrder) (n : Nat) : Nat :=
  if f = 22#8 then (if n % 13 < 3 then 1 + 3 * (n / 13) + n % 13 else 10 + (n % 13 - 4))
  else if f = 21#8 then (if n % 13 < 3 then n % 13 else 3 + (n % 13 - 4))
  else 11 * orderPlace o (curveOf n) + (if n % 13 = 2 then 10 else if n % 13 = 3 then 9 else n % 13 - 4)

theorem reading_22 (m : Memory) (j : Nat) : reading 22#8 m j = 2 * wireByte m 0 * wireByte m j := rfl
theorem reading_21 (m : Memory) (j : Nat) : reading 21#8 m j = wireField m j := rfl
theorem reading_10 (m : Memory) (j : Nat) : reading 10#8 m j = wireField m j := rfl

theorem sourceOf_22 (o : CurveOrder) (n : Nat) :
    sourceOf 22#8 o n = if n % 13 < 3 then 1 + 3 * (n / 13) + n % 13 else 10 + (n % 13 - 4) := rfl

theorem sourceOf_21 (o : CurveOrder) (n : Nat) :
    sourceOf 21#8 o n = if n % 13 < 3 then n % 13 else 3 + (n % 13 - 4) := rfl

theorem sourceOf_10 (o : CurveOrder) (n : Nat) :
    sourceOf 10#8 o n
      = 11 * orderPlace o (curveOf n) + (if n % 13 = 2 then 10 else if n % 13 = 3 then 9 else n % 13 - 4) := rfl

/-- What the weighter adds to the reading of register `n` (R132): nothing to a summary, and nothing at all in format 10. -/
def offsetOf (f : Byte) (n : Nat) : Int :=
  if f = 10#8 ∨ n % 13 < 3 then 0 else weightFactor f * curveOffset (curveOf n) (n % 13 - 4)

theorem presenceMask_22 : ∀ n : Fin 39, (presenceMask 22#8).getLsbD n.val = decide (n.val % 13 ≠ 3) := by decide

theorem presenceMask_21 : ∀ n : Fin 39,
    (presenceMask 21#8).getLsbD n.val = decide (n.val % 13 ≠ 3 ∧ (n.val % 13 < 3 → curveOf n.val = .lz)) := by decide

theorem presenceMask_10 : ∀ n : Fin 39, (presenceMask 10#8).getLsbD n.val = decide (2 ≤ n.val % 13) := by decide

theorem value22_eq (o : CurveOrder) (m : Memory) (n : Fin 39) :
    value22 m n.val = if (presenceMask 22#8).getLsbD n.val
      then some (reading 22#8 m (sourceOf 22#8 o n.val) + offsetOf 22#8 n.val) else none := by
  rw [presenceMask_22, value22, sourceOf_22, reading_22]
  by_cases summary : n.val % 13 < 3
  · simp [summary, show n.val % 13 ≠ 3 by omega, offsetOf, frameByte, wireByte]
  · by_cases peak : n.val % 13 = 3
    · simp [peak]
    · simp [summary, peak, offsetOf, weightFactor, frameByte, wireByte]

theorem value21_eq (o : CurveOrder) (m : Memory) (n : Fin 39) :
    value21 m n.val = if (presenceMask 21#8).getLsbD n.val
      then some (reading 21#8 m (sourceOf 21#8 o n.val) + offsetOf 21#8 n.val) else none := by
  rw [presenceMask_21, value21, sourceOf_21, reading_21]
  by_cases summary : n.val % 13 < 3
  · simp [summary, show n.val % 13 ≠ 3 by omega, offsetOf, packedField_eq]
  · by_cases peak : n.val % 13 = 3
    · simp [peak]
    · simp [summary, peak, offsetOf, weightFactor, packedField_eq]

theorem value10_eq (o : CurveOrder) (m : Memory) (n : Fin 39) :
    value10 o m n.val = if (presenceMask 10#8).getLsbD n.val
      then some (reading 10#8 m (sourceOf 10#8 o n.val) + offsetOf 10#8 n.val) else none := by
  have none_added : offsetOf 10#8 n.val = 0 := if_pos (.inl rfl)
  rw [presenceMask_10, value10, sourceOf_10, reading_10, none_added, add_zero]
  by_cases absent : n.val % 13 < 2
  · simp [absent]
  · simp only [absent, show 2 ≤ n.val % 13 by omega, packedField_eq, decide_true, if_true, if_false]
    split_ifs <;> rfl

/-- A register has a result exactly where the mask of the layout has its bit, and it is a reading with an offset. -/
theorem frameValue_eq {f : Byte} (known : recognised f = true) (o : CurveOrder) (m : Memory) (n : Fin 39) :
    frameValue f o m n.val = if (presenceMask f).getLsbD n.val
      then some (reading f m (sourceOf f o n.val) + offsetOf f n.val) else none := by
  rcases (recognised_iff f).mp known with rfl | rfl | rfl
  · exact value22_eq o m n
  · exact value21_eq o m n
  · exact value10_eq o m n

/-- In the layouts with a `WGT`, the three spectra differ in their offsets alone (R132). -/
theorem frameValue_band {f : Byte} (weighted : f = 22#8 ∨ f = 21#8) (o : CurveOrder) (m : Memory) {k : Nat} (h : k ≤ 8) :
    ∃ z, ∀ c, frameValue f o m (13 * curveNumber c + 4 + k) = some (z + weightFactor f * curveOffset c k) := by
  rcases weighted with rfl | rfl
  · exact ⟨_, fun c => value22_band m c h⟩
  · refine ⟨wireField m (3 + k), fun c => ?_⟩
    rw [frameValue_21, value21_band m c h, weightFactor, if_neg (by decide), one_mul]

/-! ## The bytes that a decode reads (R120, R155) -/

theorem wireField_congr {m m' : Memory} {j : Nat} (first : Memory.read m (3 * j / 2) = Memory.read m' (3 * j / 2))
    (second : Memory.read m (3 * j / 2 + 1) = Memory.read m' (3 * j / 2 + 1)) : wireField m j = wireField m' j := by
  rw [← packedField_eq, ← packedField_eq, packedField, packedField, extract12_congr first second]

theorem orderPlace_le (o : CurveOrder) (c : Curve) : orderPlace o c ≤ 2 := by
  cases o <;> cases c <;> decide

/-- The readings of a layout lie below `REQ`, so they depend on those bytes alone. -/
theorem reading_congr {f : Byte} (known : recognised f = true) {o : CurveOrder} {m m' : Memory} (n : Fin 39)
    (agree : ∀ a : Nat, a < leastLength f → Memory.read m a = Memory.read m' a) :
    reading f m (sourceOf f o n.val) = reading f m' (sourceOf f o n.val) := by
  have slot : n.val % 13 < 13 := Nat.mod_lt _ (by decide)
  have curve : n.val / 13 ≤ 2 := by omega
  have place := orderPlace_le o (curveOf n.val)
  rcases (recognised_iff f).mp known with rfl | rfl | rfl
  · have inside : sourceOf 22#8 o n.val < 19 := by rw [sourceOf_22]; split_ifs <;> omega
    rw [reading_22, reading_22, wireByte, wireByte, wireByte, wireByte, agree 0 (by decide), agree _ inside]
  · have inside : sourceOf 21#8 o n.val ≤ 11 := by rw [sourceOf_21]; split_ifs <;> omega
    exact wireField_congr (agree _ (by rw [leastLength_21]; omega)) (agree _ (by rw [leastLength_21]; omega))
  · have inside : sourceOf 10#8 o n.val ≤ 32 := by rw [sourceOf_10]; split_ifs <;> omega
    exact wireField_congr (agree _ (by rw [leastLength_10]; omega)) (agree _ (by rw [leastLength_10]; omega))

theorem frameValue_congr {f : Byte} (known : recognised f = true) {o : CurveOrder} {m m' : Memory} (n : Fin 39)
    (agree : ∀ a : Nat, a < leastLength f → Memory.read m a = Memory.read m' a) :
    frameValue f o m n.val = frameValue f o m' n.val := by
  rw [frameValue_eq known, frameValue_eq known, reading_congr known n agree]

/-- A present register's result after a decode with data, whatever the register held before. -/
theorem getResult_finishedDecode {f : Byte} {cur : BitVec 8} {scale : Byte} {q : Nat → Option Int} {s : State} {n : Fin 39}
    {v : Int} (value : q n.val = some v) : (finishedDecode f cur scale q s).getResult n = BitVec.ofInt 32 v :=
  storeResults_some n.isLt value

/-! ## The observation of a decode (R176) -/

theorem SameObservation.symm {s t : State} (same : SameObservation s t) : SameObservation t s := by
  obtain ⟨status, unit, present, results⟩ := same
  exact ⟨status.symm, unit.symm, present.symm, fun n => (results n).symm⟩

theorem SameObservation.trans {s t u : State} (first : SameObservation s t) (second : SameObservation t u) :
    SameObservation s u := by
  obtain ⟨status, unit, present, results⟩ := first
  obtain ⟨status', unit', present', results'⟩ := second
  exact ⟨status.trans status', unit.trans unit', present.trans present', fun n => (results n).trans (results' n)⟩

/-- The four status bits, the unit and the mask, and the words of the present registers are all that the host observes. -/
theorem sameObservation_of_present {s t : State} (busy : s.busy = t.busy) (done : s.done = t.done) (err : s.err = t.err)
    (warn : s.warn = t.warn) (unit : s.unit = t.unit) (present : s.present = t.present)
    (words : ∀ n : Fin 39, s.present.getLsbD n.val = true → s.getResult n = t.getResult n) : SameObservation s t := by
  refine ⟨by rw [State.statusWord, State.statusWord, busy, done, err, warn], unit, present, fun n => ?_⟩
  cases bit : s.present.getLsbD n.val with
  | true => rw [result?_present bit, result?_present (present ▸ bit), words n bit]
  | false => rw [result?_absent bit, result?_absent (present ▸ bit)]

/-- With no result present, the words do not matter. -/
theorem sameObservation_of_absent {s t : State} (busy : s.busy = t.busy) (done : s.done = t.done) (err : s.err = t.err)
    (warn : s.warn = t.warn) (unit : s.unit = t.unit) (none : s.present = 0#39) (none' : t.present = 0#39) :
    SameObservation s t :=
  sameObservation_of_present busy done err warn unit (none.trans none'.symm) fun n bit => by simp [none] at bit

/-- The command level is pure: two idle states that agree on format, length, curve order and the bytes below `LEN` and `REQ` end
alike. -/
theorem decodeCommand_pure {s s' : State} (idle : s.busy = false) (idle' : s'.busy = false) (fmt : s.fmt = s'.fmt)
    (len : s.len = s'.len) (order : s.order = s'.order)
    (agree : ∀ a : Nat, a < s.len.toNat → a < leastLength s.fmt → Memory.read s.fb a = Memory.read s'.fb a) :
    ∃ u u', exec (decodeCommand s.fmt) s = .next u ∧ exec (decodeCommand s'.fmt) s' = .next u' ∧ SameObservation u u' := by
  cases known : recognised s.fmt with
  | false =>
    refine ⟨_, _, exec_decodeCommand_unrecognised idle known, exec_decodeCommand_unrecognised idle' (fmt ▸ known), ?_⟩
    exact sameObservation_of_absent (idle.trans idle'.symm) rfl rfl rfl rfl rfl rfl
  | true =>
    obtain ⟨cur, scale, ran⟩ := exec_decodeCommand known
    obtain ⟨cur', scale', ran'⟩ := exec_decodeCommand (s := s') (fmt ▸ known)
    refine ⟨_, _, ran, ran', ?_⟩
    rw [← fmt, ← order]
    by_cases short : s.len.toNat < leastLength s.fmt
    · rw [decodeFrame_short idle short, decodeFrame_short idle' (len ▸ short)]
      exact sameObservation_of_absent rfl rfl rfl rfl rfl rfl rfl
    · have long := Nat.not_lt.mp short
      rw [decodeFrame_data idle long, decodeFrame_data idle' (len ▸ long)]
      refine sameObservation_of_present rfl rfl rfl rfl rfl rfl fun n bit => ?_
      have value := (frameValue_eq known s.order s.fb n).trans (if_pos bit)
      have same := frameValue_congr known (o := s.order) n fun a below => agree a (below.trans_le long) below
      rw [getResult_finishedDecode value, getResult_finishedDecode (same ▸ value)]

end Sys2Proof.Machine
end

section
/-! PROOFS. The layout program leaves the results that the command gives (R142, R154), and a decode is pure (R155). -/

namespace Sys2Proof.Machine

/-! ## What the words of the three programs read and write (R113 to R117) -/

/-- The result registers that a micro-operation writes when it completes (R93, R96, R132). -/
def writes (i : Instr) (n : Nat) : Bool :=
  match i with
  | .rdb d => n == d.toNat
  | .rd12 d => n == d.toNat
  | .wgt => (4 ≤ n && n ≤ 12) || (17 ≤ n && n ≤ 25)
  | _ => false

/-- Register `n` takes reading `j` of layout `f` as it stands. -/
def takes (f : Byte) (o : CurveOrder) (n j : Nat) : Bool :=
  (presenceMask f).getLsbD n && sourceOf f o n == j && offsetOf f n == 0

/-- Each read of a program stands where the cursor is at the source of its register. -/
def readsItsSource (o : CurveOrder) (i : Instr) (a : Nat) : Bool :=
  match i with
  | .rdb d => takes 22#8 o d.toNat a
  | .rd12 d => if a ≤ 0x20 then takes 21#8 o d.toNat (a - 0x15) else takes 10#8 o d.toNat (a - 0x23)
  | _ => true

theorem program_readsItsSource (o : CurveOrder) :
    ∀ a : Fin 69, ((program o)[a.val]?.map fun i => readsItsSource o i a.val) = some true := by
  cases o <;> decide

/-- Every register of a layout's mask is written by a word of its program. -/
theorem program_writes_mask (o : CurveOrder) : ∀ f ∈ [22#8, 21#8, 10#8], ∀ n : Fin 39,
    (presenceMask f).getLsbD n.val = true →
      (((program o).take (lend f).toNat).drop (lbase f).toNat).any (fun i => writes i n.val) = true := by
  cases o <;> decide

/-- The Z band `k` is read before the `WGT` of either program. -/
theorem program_bands (o : CurveOrder) : ∀ k : Fin 9,
    (program o)[10 + k.val]? = some (.rdb (BitVec.ofNat 6 (30 + k.val)))
      ∧ (program o)[0x18 + k.val]? = some (.rd12 (BitVec.ofNat 6 (30 + k.val))) := by
  cases o <;> decide

/-- What a table of the ROM says of every address holds of the word at any address. -/
theorem program_check {o : CurveOrder} {check : Instr → Nat → Bool}
    (table : ∀ a : Fin 69, ((program o)[a.val]?.map fun i => check i a.val) = some true) {a : Nat} {i : Instr}
    (h : (program o)[a]? = some i) : check i a = true := by
  have inside : a < 69 := program_length o ▸ (List.getElem?_eq_some_iff.mp h).1
  simpa [h] using table ⟨a, inside⟩

theorem frameValue_of_takes {f : Byte} (known : recognised f = true) {o : CurveOrder} (m : Memory) {n j : Nat} (legal : n < 39)
    (h : takes f o n j = true) : frameValue f o m n = some (reading f m j) := by
  simp only [takes, Bool.and_eq_true, beq_iff_eq] at h
  obtain ⟨⟨bit, source⟩, offset⟩ := h
  rw [frameValue_eq known o m ⟨n, legal⟩, if_pos bit, source, offset, add_zero]

/-! ## The words that the reads leave -/

theorem ofInt_reading_22 (m : Memory) (j : Nat) :
    BitVec.ofInt 32 (reading 22#8 m j) = scaledWord (Memory.read m 0) (Memory.read m j) := by
  have exact_product : reading 22#8 m j = (scaledWord (Memory.read m 0) (Memory.read m j)).toInt :=
    (mul_assoc _ _ _).trans (scaledWord_toInt _ _).symm
  rw [exact_product, BitVec.ofInt_toInt]

theorem ofInt_reading_packed {f : Byte} (packed : f = 21#8 ∨ f = 10#8) (m : Memory) (j : Nat) :
    BitVec.ofInt 32 (reading f m j) = sext12 (extract12 m (3 * j)) := by
  have field : reading f m j = (sext12 (extract12 m (3 * j))).toInt := by
    rcases packed with rfl | rfl
    · exact (packedField_eq m j).symm
    · exact (packedField_eq m j).symm
  rw [field, BitVec.ofInt_toInt]

/-! ## A micro-operation that completed -/

theorem Progress.ne_bufferTooShort {s t : State} (progress : Progress s t) : t ≠ bufferTooShort s := by
  rintro rfl
  have moved : s.seq.toNat = s.seq.toNat + 1 := progress.seq
  omega

theorem rds_completed {s t : State} (ran : exec .rds s = .next t) (progress : Progress s t) :
    t = { s with scale := Memory.read s.fb (s.cur.toNat / 2) }.advance 2 := by
  rcases Nat.lt_or_ge (s.cur.toNat / 2) s.len.toNat with fits | short
  · exact Host.Outcome.next.inj (ran.symm.trans (exec_rds_fits fits))
  · exact absurd (Host.Outcome.next.inj (ran.symm.trans (exec_rds_short short))) progress.ne_bufferTooShort

theorem rdb_completed {s t : State} {d : BitVec 6} (legal : d.toNat < 39) (ran : exec (.rdb d) s = .next t)
    (progress : Progress s t) :
    t = (s.setResult ⟨d.toNat, legal⟩ (scaledWord s.scale (Memory.read s.fb (s.cur.toNat / 2)))).advance 2 := by
  rcases Nat.lt_or_ge (s.cur.toNat / 2) s.len.toNat with fits | short
  · exact Host.Outcome.next.inj (ran.symm.trans (exec_rdb_fits legal fits))
  · exact absurd (Host.Outcome.next.inj (ran.symm.trans (exec_rdb_short legal short))) progress.ne_bufferTooShort

theorem rd12_completed {s t : State} {d : BitVec 6} (legal : d.toNat < 39) (ran : exec (.rd12 d) s = .next t)
    (progress : Progress s t) :
    t = (s.setResult ⟨d.toNat, legal⟩ (sext12 (extract12 s.fb s.cur.toNat))).advance 3 := by
  rcases Nat.lt_or_ge s.len.toNat (s.cur.toNat / 2 + 2) with short | fits
  · exact absurd (Host.Outcome.next.inj (ran.symm.trans (exec_rd12_short legal short))) progress.ne_bufferTooShort
  · exact Host.Outcome.next.inj (ran.symm.trans (exec_rd12_fits legal fits))

/-! ## The registers in the middle of a decode -/

/-- `w` is the word of register `n`'s result of the frame. -/
def isResult (s : State) (n : Nat) (w : Word) : Prop :=
  ∃ v, frameValue s.fmt s.order s.fb n = some v ∧ w = BitVec.ofInt 32 v

/-- The part of the program before `SEQ` has done its work: `SCALE` holds the scale byte, and each register that one of its
words writes holds its result. -/
structure ReadSoFar (s : State) : Prop where
  scale : s.fmt = 22#8 → 0 < s.seq.toNat → s.scale = Memory.read s.fb 0
  results : ∀ (a : Nat) (i : Instr) (n : Fin 39), (lbase s.fmt).toNat ≤ a → a < s.seq.toNat →
    (program s.order)[a]? = some i → writes i n.val = true → isResult s n.val (s.word n.val)

theorem readSoFar_beginDecode (s : State) : ReadSoFar (beginDecode s) where
  scale f later := by
    have atBase : (beginDecode s).seq = 0#7 := congrArg lbase f
    rw [atBase] at later
    exact absurd later (by decide)
  results a i n low high := absurd high (Nat.not_lt.mpr low)

/-- A completed micro-operation extends that part by one word, if it writes results only and keeps every other register. -/
theorem ReadSoFar.of_step {s t : State} {i : Instr} (before : ReadSoFar s) (progress : Progress s t)
    (atSeq : (program s.order)[s.seq.toNat]? = some i) (scale : s.fmt = 22#8 → t.scale = Memory.read s.fb 0)
    (kept : ∀ n : Fin 39, writes i n.val = false → t.word n.val = s.word n.val)
    (written : ∀ n : Fin 39, writes i n.val = true → isResult s n.val (t.word n.val)) : ReadSoFar t := by
  have inputs : t.fmt = s.fmt ∧ t.order = s.order ∧ t.fb = s.fb := by rw [progress.frame]; exact ⟨rfl, rfl, rfl⟩
  obtain ⟨fmt, order, fb⟩ := inputs
  refine ⟨fun f _ => fb ▸ scale (fmt ▸ f), fun a j n low high atA writesN => ?_⟩
  rw [fmt] at low
  rw [progress.seq] at high
  rw [order] at atA
  rw [isResult, fmt, order, fb]
  cases now : writes i n.val with
  | true => exact written n now
  | false =>
    have earlier : a ≠ s.seq.toNat := by
      rintro rfl
      obtain rfl : i = j := Option.some.inj (atSeq.symm.trans atA)
      exact absurd writesN (by simp [now])
    obtain ⟨v, value, word⟩ := before.results a j n low (by omega) atA writesN
    exact ⟨v, value, (kept n now).trans word⟩

/-- A read that puts the word of a register's reading into it extends that part. -/
theorem ReadSoFar.of_read {s t : State} {d : BitVec 6} {w : Word} {j nibbles : Nat} (before : ReadSoFar s)
    (progress : Progress s t) {i : Instr} (writesD : ∀ n, writes i n = (n == d.toNat))
    (atSeq : (program s.order)[s.seq.toNat]? = some i) (later : s.fmt = 22#8 → 0 < s.seq.toNat) (legal : d.toNat < 39)
    (known : recognised s.fmt = true) (source : takes s.fmt s.order d.toNat j = true)
    (word : BitVec.ofInt 32 (reading s.fmt s.fb j) = w) (completed : t = (s.setResult ⟨d.toNat, legal⟩ w).advance nibbles) :
    ReadSoFar t := by
  subst completed
  refine before.of_step progress atSeq (fun f => before.scale f (later f)) (fun n other => ?_) (fun n this => ?_)
  · rw [writesD, beq_eq_false_iff_ne] at other
    exact word_setResult_other s w other
  · rw [writesD, beq_iff_eq] at this
    rw [this]
    exact ⟨_, frameValue_of_takes known s.fb legal source, (word_setResult_same s ⟨d.toNat, legal⟩ w).trans word.symm⟩

/-- Before the `WGT` of a program its Z spectrum is read. -/
theorem ReadSoFar.bands {s : State} (before : ReadSoFar s)
    (place : (s.fmt = 22#8 ∧ s.seq.toNat = 0x13) ∨ (s.fmt = 21#8 ∧ s.seq.toNat = 0x21)) {k : Nat} (h : k ≤ 8) :
    isResult s (30 + k) (s.word (30 + k)) := by
  obtain ⟨scaled, packed⟩ := program_bands s.order ⟨k, by omega⟩
  have dest : (BitVec.ofNat 6 (30 + k)).toNat = 30 + k := by rw [BitVec.toNat_ofNat]; omega
  rcases place with ⟨f, seq⟩ | ⟨f, seq⟩
  · refine before.results (10 + k) _ ⟨30 + k, by omega⟩ ?_ (by omega) scaled (by simp [writes, dest])
    rw [f]
    exact Nat.zero_le _
  · refine before.results (0x18 + k) _ ⟨30 + k, by omega⟩ ?_ (by omega) packed (by simp [writes, dest])
    rw [f, show (lbase 21#8).toNat = 0x15 from rfl]
    omega

/-- A Z band's result with the offset of a curve is that curve's result of the band (R132). -/
theorem isResult_band {s : State} (weighted : s.fmt = 22#8 ∨ s.fmt = 21#8) {k : Nat} (h : k ≤ 8) {w : Word}
    (band : isResult s (30 + k) w) (c : Curve) :
    isResult s (13 * curveNumber c + 4 + k) (w + BitVec.ofInt 32 (weightFactor s.fmt * curveOffset c k)) := by
  obtain ⟨z, bands⟩ := frameValue_band weighted s.order s.fb h
  obtain ⟨v, value, rfl⟩ := band
  have unweighted : frameValue s.fmt s.order s.fb (30 + k) = some (z + weightFactor s.fmt * 0) := bands .lz
  have same : v = z := by simpa using value.symm.trans unweighted
  exact ⟨_, bands c, by rw [same, BitVec.ofInt_add]⟩

/-- The additions of `WGT` turn the Z spectrum's results into those of the A and C spectra (R132). -/
theorem ReadSoFar.of_wgt {s t : State} (before : ReadSoFar s) (progress : Progress s t) (ran : exec .wgt s = .next t)
    (atSeq : (program s.order)[s.seq.toNat]? = some .wgt)
    (place : (s.fmt = 22#8 ∧ s.seq.toNat = 0x13) ∨ (s.fmt = 21#8 ∧ s.seq.toNat = 0x21)) : ReadSoFar t := by
  have weighted : s.fmt = 22#8 ∨ s.fmt = 21#8 := place.imp And.left And.left
  obtain ⟨u, ranU, additions, others, -, -, scale, -⟩ := wgtAddsTheOffsets.2 s
  obtain rfl : u = t := Host.Outcome.next.inj (ranU.symm.trans ran)
  refine before.of_step progress atSeq (fun f => scale.trans (before.scale f (by omega))) (fun n other => ?_) (fun n this => ?_)
  · simp only [writes, Bool.or_eq_false_iff, Bool.and_eq_false_iff, decide_eq_false_iff_not] at other
    exact others n.val (by omega) (by omega) (by omega)
  · simp only [writes, Bool.or_eq_true, Bool.and_eq_true, decide_eq_true_eq] at this
    rcases this with inA | inC
    · obtain ⟨k, band⟩ : ∃ k, n.val = 4 + k := ⟨n.val - 4, by omega⟩
      have small : k ≤ 8 := by omega
      have result := isResult_band weighted small (before.bands place small) .la
      have number : 13 * curveNumber .la + 4 + k = 4 + k := by simp [curveNumber]
      rw [number] at result
      rw [band, (additions k small).1]
      exact result
    · obtain ⟨k, band⟩ : ∃ k, n.val = 17 + k := ⟨n.val - 17, by omega⟩
      have small : k ≤ 8 := by omega
      rw [band, (additions k small).2]
      exact isResult_band weighted small (before.bands place small) .lc

/-! ## The simulation, step by step (R142) -/

/-- Every micro-operation that completes extends the part of the program that has done its work. -/
theorem ReadSoFar.of_progress {s t : State} {i : Instr} (before : ReadSoFar s)
    (point : programPoint s.fmt s.seq.toNat s.cur.toNat) (atSeq : (program s.order)[s.seq.toNat]? = some i)
    (ran : exec i s = .next t) (progress : Progress s t) : ReadSoFar t := by
  have shape := program_check (program_shape s.order) atSeq
  have source := program_check (program_readsItsSource s.order) atSeq
  cases i with
  | rds =>
    have first : s.seq.toNat = 0 := of_decide_eq_true shape
    have cursor : s.cur.toNat / 2 = 0 := by rcases point with h | h | h <;> omega
    have completed := rds_completed ran progress
    rw [cursor] at completed
    subst completed
    exact before.of_step progress atSeq (fun _ => rfl) (fun _ _ => rfl) nofun
  | rdb d =>
    simp only [shapeOk, Bool.and_eq_true, decide_eq_true_eq] at shape
    obtain ⟨⟨low, high⟩, legal⟩ := shape
    have format : s.fmt = 22#8 ∧ s.cur.toNat / 2 = s.seq.toNat := by
      rcases point with ⟨f, h⟩ | ⟨f, h⟩ | ⟨f, h⟩
      · exact ⟨f, by omega⟩
      all_goals omega
    obtain ⟨f, cursor⟩ := format
    refine before.of_read progress (fun _ => rfl) atSeq (fun _ => low) legal (by rw [f]; rfl) (by rw [f]; exact source) ?_
      (rdb_completed legal ran progress)
    rw [f, ofInt_reading_22, cursor, before.scale f low]
  | rd12 d =>
    simp only [shapeOk, Bool.and_eq_true, Bool.or_eq_true, decide_eq_true_eq] at shape
    obtain ⟨range, legal⟩ := shape
    have format : ∃ j, (s.fmt = 21#8 ∨ s.fmt = 10#8) ∧ takes s.fmt s.order d.toNat j = true ∧ s.cur.toNat = 3 * j := by
      rcases point with ⟨f, h⟩ | ⟨f, h⟩ | ⟨f, h⟩
      · omega
      · rw [readsItsSource, if_pos (by omega), ← f] at source
        exact ⟨_, .inl f, source, by omega⟩
      · rw [readsItsSource, if_neg (by omega), ← f] at source
        exact ⟨_, .inr f, source, by omega⟩
    obtain ⟨j, packed, source, cursor⟩ := format
    refine before.of_read progress (fun _ => rfl) atSeq (fun _ => by omega) legal ((recognised_iff _).mpr (.inr packed)) source
      ?_ (rd12_completed legal ran progress)
    rw [ofInt_reading_packed packed, cursor]
  | wgt =>
    simp only [shapeOk, Bool.or_eq_true, decide_eq_true_eq] at shape
    refine before.of_wgt progress ran atSeq ?_
    rcases point with ⟨f, h⟩ | ⟨f, h⟩ | ⟨f, h⟩
    · exact .inl ⟨f, by omega⟩
    · exact .inr ⟨f, by omega⟩
    · omega
  | endOp =>
    have same : publish s.fmt s = t := Host.Outcome.next.inj ((exec_end_next s).symm.trans ran)
    have moved : s.seq.toNat = s.seq.toNat + 1 := by simpa [← same] using progress.seq
    omega
  | dec22 => cases shape
  | dec21 => cases shape
  | dec10 => cases shape
  | decnop f => cases shape

/-! ## A whole run -/

/-- `Running.run_ends` with an invariant: a property that every completed micro-operation keeps holds where the run ends. -/
theorem Running.run_ends_keeping {P : State → Prop}
    (keeps : ∀ s t i, Running s → P s → (program s.order)[s.seq.toNat]? = some i → exec i s = .next t → Progress s t → P t)
    {k : Nat} {s : State} (running : Running s) (holds : P s) (fuel : (lend s.fmt).toNat < s.seq.toNat + k) :
    ∃ u, Running u ∧ P u
      ∧ ((u.lacksByte ∧ run k s = .next (bufferTooShort u))
        ∨ (u.seq = lend u.fmt ∧ run k s = .next (publish u.fmt u))) := by
  induction k generalizing s with
  | zero =>
    have := seq_le_lend running.point
    omega
  | succ k ih =>
    have turn := step_undisturbed running.idleHost
    rcases sequencerTurn_cases running.rom running.enabled running.point with
      ⟨lacks, short⟩ | ⟨enough, -, t, ran, progress⟩ | ⟨-, ended, published⟩
    · exact ⟨s, running, holds, .inl ⟨lacks, run_of_last_step k (turn.trans short) running.idleHost rfl⟩⟩
    · obtain ⟨still, fmt, -⟩ := running.of_progress enough progress
      have inside : s.seq.toNat ≤ 0x44 := by rcases running.point with h | h | h <;> omega
      obtain ⟨i, atSeq, -⟩ := program_at s.order inside
      have execs : exec i s = .next t := (sequencerTurn_program running.rom running.enabled atSeq).symm.trans ran
      have left : (lend t.fmt).toNat < t.seq.toNat + k := by rw [fmt, progress.seq]; omega
      rw [run_succ k (turn.trans ran)]
      exact ih still (keeps s t i running holds atSeq execs progress) left
    · exact ⟨s, running, holds, .inr ⟨ended, run_of_last_step k (turn.trans published) running.idleHost rfl⟩⟩

/-- `s` is a state of the decode that began in `b`: only the engine's own registers differ, and the program before `SEQ` has done
its work. -/
structure DecodeOf (b s : State) : Prop where
  frame : s = { b with r := s.r, scale := s.scale, cur := s.cur, seq := s.seq }
  soFar : ReadSoFar s

theorem DecodeOf.of_progress {b s t : State} {i : Instr} (running : Running s) (decode : DecodeOf b s)
    (atSeq : (program s.order)[s.seq.toNat]? = some i) (ran : exec i s = .next t) (progress : Progress s t) : DecodeOf b t where
  frame := progress.frame.trans (by rw [decode.frame])
  soFar := decode.soFar.of_progress running.point atSeq ran progress

/-- At `END` every register of the mask holds its result. -/
theorem ReadSoFar.all_results {s : State} (before : ReadSoFar s) (known : recognised s.fmt = true) (ended : s.seq = lend s.fmt)
    {n : Fin 39} (bit : (presenceMask s.fmt).getLsbD n.val = true) : isResult s n.val (s.word n.val) := by
  have listed : s.fmt ∈ [22#8, 21#8, 10#8] := by simpa using (recognised_iff s.fmt).mp known
  obtain ⟨i, mem, writesN⟩ := List.any_eq_true.mp (program_writes_mask s.order s.fmt listed n bit)
  obtain ⟨a, atA⟩ := List.mem_iff_getElem?.mp mem
  rw [List.getElem?_drop, List.getElem?_take] at atA
  split_ifs at atA with inside
  exact before.results _ i n (Nat.le_add_right _ a) (by rw [ended]; exact inside) atA writesN

/-- The inputs and the cleared state of a decode are those that `START` left. -/
theorem DecodeOf.kept {s u : State} (decode : DecodeOf (beginDecode s) u) :
    InputsKept s u ∧ u.err = false ∧ u.warn = false ∧ u.unit = 0#10 ∧ u.present = 0#39 := by
  rw [decode.frame]
  exact ⟨inputsKept_of_frame rfl, rfl, rfl, rfl, rfl⟩

/-- A decode that a read ended shows what the failed command shows. -/
theorem DecodeOf.error_agrees {s u : State} (decode : DecodeOf (beginDecode s) u) :
    SameObservation (bufferTooShort u) (failedDecode s.fmt s) := by
  obtain ⟨-, -, warn, unit, present⟩ := decode.kept
  exact sameObservation_of_absent rfl rfl rfl warn unit present rfl

/-- A decode that reached `END` shows what the finished command shows. -/
theorem DecodeOf.data_agrees {s u : State} (decode : DecodeOf (beginDecode s) u) (known : recognised u.fmt = true)
    (ended : u.seq = lend u.fmt) (cur : BitVec 8) (scale : Byte) :
    SameObservation (publish u.fmt u) (finishedDecode s.fmt cur scale (frameValue s.fmt s.order s.fb) s) := by
  obtain ⟨inputs, err, warn, -⟩ := decode.kept
  refine sameObservation_of_present rfl rfl err warn (congrArg unitOf inputs.fmt) (congrArg presenceMask inputs.fmt)
    fun n bit => ?_
  obtain ⟨v, value, word⟩ := decode.soFar.all_results known ended bit
  have sameFrame : frameValue u.fmt u.order u.fb = frameValue s.fmt s.order s.fb := by rw [decode.frame]; rfl
  calc (publish u.fmt u).getResult n = u.word n.val := (word_eq_getResult u n.isLt).symm
    _ = BitVec.ofInt 32 v := word
    _ = _ := (getResult_finishedDecode (sameFrame ▸ value)).symm

/-- Writing `STATUS`, the unit and the mask keeps the inputs of a decode. -/
theorem InputsKept.publish {s u : State} (kept : InputsKept s u) (f : Byte) : InputsKept s (publish f u) :=
  ⟨kept.bytes, kept.stored, kept.len, kept.fmt, kept.resetIn, kept.lrom, kept.order, kept.host, kept.reply, kept.free⟩

theorem InputsKept.bufferTooShort {s u : State} (kept : InputsKept s u) : InputsKept s (bufferTooShort u) :=
  ⟨kept.bytes, kept.stored, kept.len, kept.fmt, kept.resetIn, kept.lrom, kept.order, kept.host, kept.reply, kept.free⟩

/-- The run of the layout program leaves the observation that the command leaves (R154). -/
theorem run_agrees_with_command {s : State} {k : Nat} (inv : Inv s) (quiet : s.undisturbed) (idle : s.busy = false)
    (known : recognised s.fmt = true) (fuel : stepBound s.fmt ≤ k) :
    ∃ t u, run k (start s) = .next t ∧ exec (decodeCommand s.fmt) s = .next u
      ∧ t.done = true ∧ SameObservation t u ∧ InputsKept s t ∧ InputsKept s u := by
  have ends : (lend s.fmt).toNat < (lbase s.fmt).toNat + k := by
    have := lend_lt_lbase_add_stepBound known
    omega
  obtain ⟨cur, scale, command⟩ := exec_decodeCommand known
  obtain ⟨u, running, decode, outcome⟩ :=
    (running_beginDecode inv quiet known).run_ends_keeping (P := DecodeOf (beginDecode s))
      (fun _ _ _ running decode => decode.of_progress running) ⟨rfl, readSoFar_beginDecode s⟩ ends
  obtain ⟨inputs, -⟩ := decode.kept
  rw [start_recognised idle known]
  rcases outcome with ⟨lacks, ran⟩ | ⟨ended, ran⟩
  · have short := lt_leastLength_of_lacksByte lacks
    rw [inputs.fmt, inputs.len] at short
    rw [decodeFrame_short idle short] at command
    exact ⟨_, _, ran, command, rfl, decode.error_agrees, inputs.bufferTooShort, inputsKept_failedDecode _ s⟩
  · have long := leastLength_le_of_consumed running.point ended running.consumed
    rw [inputs.fmt, inputs.len] at long
    rw [decodeFrame_data idle long] at command
    exact ⟨_, _, ran, command, rfl, decode.data_agrees (inputs.fmt ▸ known) ended cur scale, inputs.publish _,
      inputsKept_finishedDecode _ _ _ _ s⟩

/-- Settles O50: for a recognised format by `run_agrees_with_command`; any other is over at `START`, in the very state that
`DECNOP` leaves. -/
theorem theTwoLevelsAgree : Obligations.TheTwoLevelsAgree := by
  intro s inv quiet idle
  cases known : recognised s.fmt with
  | true =>
    have fuel : stepBound s.fmt ≤ 34 := by rcases (recognised_iff s.fmt).mp known with f | f | f <;> rw [f] <;> decide
    exact run_agrees_with_command inv quiet idle known fuel
  | false =>
    refine ⟨_, _, ?_, exec_decodeCommand_unrecognised idle known, rfl, ⟨rfl, rfl, rfl, fun _ => rfl⟩,
      inputsKept_warnUnrecognised s, inputsKept_warnUnrecognised s⟩
    rw [start_unrecognised idle known]
    exact run_idle (s := warnUnrecognised s) quiet.1 idle 34

/-- Settles O51: the command level is pure (`decodeCommand_pure`), and each run ends like its command (O50). -/
theorem decodingIsPure : Obligations.DecodingIsPure := by
  intro s s' inv inv' quiet quiet' idle idle' fmt len order agree
  have commands := decodeCommand_pure idle idle' fmt len order agree
  refine ⟨?_, commands⟩
  obtain ⟨u, u', ranU, ranU', same⟩ := commands
  obtain ⟨t, v, ran, ranV, -, level, -⟩ := theTwoLevelsAgree s inv quiet idle
  obtain ⟨t', v', ran', ranV', -, level', -⟩ := theTwoLevelsAgree s' inv' quiet' idle'
  obtain rfl : u = v := Host.Outcome.next.inj (ranU.symm.trans ranV)
  obtain rfl : u' = v' := Host.Outcome.next.inj (ranU'.symm.trans ranV')
  exact ⟨t, t', ran, ran', level.trans (same.trans level'.symm)⟩

end Sys2Proof.Machine
end

section
/-! PROOFS. Taking `BufferTooShort` at a reader (R171, R172). -/

namespace Sys2Proof.Machine

/-- The readers whose bytes are missing (R171): a byte read at or past `LEN`, a 12-bit read whose second byte is. -/
def lacksItsBytes (s : State) (i : Instr) : Prop :=
  (i = .rds ∧ s.len.toNat ≤ s.cur.toNat / 2)
    ∨ (∃ d : BitVec 6, d.toNat ≤ 38 ∧ i = .rdb d ∧ s.len.toNat ≤ s.cur.toNat / 2)
    ∨ (∃ d : BitVec 6, d.toNat ≤ 38 ∧ i = .rd12 d ∧ s.len.toNat < s.cur.toNat / 2 + 2)

/-- Each such reader takes the exception and does nothing of its own. -/
theorem exec_of_lacksItsBytes {s : State} {i : Instr} (lacks : lacksItsBytes s i) : exec i s = .next (bufferTooShort s) := by
  rcases lacks with ⟨rfl, short⟩ | ⟨d, legal, rfl, short⟩ | ⟨d, legal, rfl, short⟩
  · exact exec_rds_short short
  · exact exec_rdb_short (by omega) short
  · exact exec_rd12_short (by omega) short

theorem inputsKept_bufferTooShort (s : State) : InputsKept s (bufferTooShort s) := inputsKept_of_frame rfl

/-- A running decode has published nothing and warned of nothing (R141, R147). -/
theorem nothingYet_of_busy {s : State} (inv : Inv s) (busy : s.busy = true) :
    s.present = 0#39 ∧ s.unit = 0#10 ∧ s.warn = false := by
  obtain ⟨-, warn, present, unit⟩ := inv.nothingYet (inv.busyNotDone busy)
  exact ⟨present, unit, warn⟩

/-- Settles O16: the next state is `bufferTooShort s`, which writes the three status bits; that the rest is 0 in a run is the
invariant's (`nothingYet_of_busy`). -/
theorem bufferTooShortEntry : Obligations.BufferTooShortEntry := by
  intro s i lacks
  refine ⟨bufferTooShort s, exec_of_lacksItsBytes lacks, bufferTooShort_err s, bufferTooShort_done s, bufferTooShort_busy s,
    bufferTooShort_warn s, bufferTooShort_unit s, bufferTooShort_present s, bufferTooShort_cur s, bufferTooShort_seq s,
    bufferTooShort_scale s, bufferTooShort_r s, inputsKept_bufferTooShort s, fun inv busy => ?_⟩
  rw [bufferTooShort_present, bufferTooShort_unit, bufferTooShort_warn]
  exact nothingYet_of_busy inv busy

end Sys2Proof.Machine
end

section
/-! PROOFS. The busy lock-out (R208): what a host write and a host read do while a decode runs. -/

namespace Sys2Proof.Machine

/-! ## What a read of each register number answers (R26) -/

theorem readRegister_frame {n : BitVec 8} (inFrame : n.toNat < 128) (s : State) :
    readRegister n s = .value ((Memory.read s.fb n.toNat).setWidth 32) := if_pos inFrame

theorem readRegister_len (s : State) : readRegister 0x80#8 s = .value (s.len.setWidth 32) := rfl

theorem readRegister_fmt (s : State) : readRegister 0x81#8 s = .value (s.fmt.setWidth 32) := rfl

theorem readRegister_status (s : State) : readRegister 0x83#8 s = .value (s.statusWord.setWidth 32) := rfl

theorem readRegister_unit (s : State) : readRegister 0x84#8 s = .value (s.unit.setWidth 32) := rfl

theorem readRegister_presentLo (s : State) : readRegister 0x85#8 s = .value s.presentLo := rfl

theorem readRegister_presentHi (s : State) : readRegister 0x86#8 s = .value s.presentHi := rfl

/-- The numbers 0xC0 to 0xE6 are the result registers'. -/
theorem eq_regResult {n : BitVec 8} (low : 0xC0 ≤ n.toNat) (high : n.toNat ≤ 0xE6) : ∃ k : Fin 39, n = regResult k := by
  refine ⟨⟨n.toNat - 0xC0, by omega⟩, BitVec.eq_of_toNat_eq ?_⟩
  rw [toNat_regResult]
  exact (Nat.add_sub_of_le low).symm

/-! ## A running decode under the invariant -/

/-- While a decode runs `BUSY` is the only bit of `STATUS` that is 1. -/
theorem statusWord_of_busy {s : State} (inv : Inv s) (busy : s.busy = true) : s.statusWord = 1#4 := by
  have notDone := inv.busyNotDone busy
  obtain ⟨err, warn, -⟩ := inv.nothingYet notDone
  rw [State.statusWord, busy, notDone, err, warn]
  rfl

/-- A busy block is not held in reset: there `STATUS` is 0 (R200). -/
theorem released_of_busy {s : State} (inv : Inv s) (busy : s.busy = true) : s.resetIn = false := by
  cases held : s.resetIn with
  | false => rfl
  | true =>
    obtain ⟨cleared, -⟩ := inv.heldInReset held
    rw [statusWord_of_busy inv busy] at cleared
    contradiction

theorem readRegister_status_of_busy {s : State} (inv : Inv s) (busy : s.busy = true) :
    readRegister 0x83#8 s = .value 1#32 := by
  rw [readRegister_status, statusWord_of_busy inv busy]
  rfl

/-- `UNIT` and both halves of `PRESENT` read 0: nothing is published yet (R208). -/
theorem readRegister_unpublished_of_busy {s : State} (inv : Inv s) (busy : s.busy = true) {n : BitVec 8}
    (summary : n = 0x84#8 ∨ n = 0x85#8 ∨ n = 0x86#8) : readRegister n s = .value 0#32 := by
  obtain ⟨present, unit, -⟩ := nothingYet_of_busy inv busy
  rcases summary with rfl | rfl | rfl
  · rw [readRegister_unit, unit]
    rfl
  · rw [readRegister_presentLo, State.presentLo, present]
    rfl
  · rw [readRegister_presentHi, State.presentHi, present]
    rfl

/-- No result register has a value: every presence bit is 0 (R14, R208). -/
theorem readRegister_result_of_busy {s : State} (inv : Inv s) (busy : s.busy = true) {n : BitVec 8}
    (low : 0xC0 ≤ n.toNat) (high : n.toNat ≤ 0xE6) : readRegister n s = .noValue := by
  obtain ⟨k, rfl⟩ := eq_regResult low high
  obtain ⟨present, -⟩ := nothingYet_of_busy inv busy
  rw [readRegister_regResult, replyOfResult_absent (by rw [present]; exact BitVec.getLsbD_zero)]

/-- Outside reset a pending host read is one step, which answers what the register reads as. -/
theorem step_read_reply {s : State} {n : BitVec 8} {rest : List HostOp} (pending : s.host = .read n :: rest)
    (released : s.resetIn = false) : ∃ t, step s = .next t ∧ t.reply = readRegister n s :=
  ⟨_, step_read pending, portRead_reply (s := { s with host := rest }) released⟩

/-- Settles O35: a write is one step of the port, which drops it (`portWrite_busy`); a read answers what its register reads as
(`step_read_reply`), where the invariant says that a running decode has published nothing. -/
theorem busyLockOut : Obligations.BusyLockOut := by
  refine fun s rest busy => ⟨fun n v pending => ?_, fun n inv pending => ?_⟩
  · rw [step_write pending, portWrite_busy (s := { s with host := rest }) busy]
  · obtain ⟨t, ran, reply⟩ := step_read_reply pending (released_of_busy inv busy)
    refine ⟨t, ran, ?_⟩
    rw [reply]
    refine ⟨fun inFrame => readRegister_frame inFrame s, ?_, ?_, ?_, readRegister_unpublished_of_busy inv busy,
      readRegister_result_of_busy inv busy⟩
    · rintro rfl
      exact readRegister_len s
    · rintro rfl
      exact readRegister_fmt s
    · rintro rfl
      exact readRegister_status_of_busy inv busy

end Sys2Proof.Machine
end

section
/-! PROOFS. The command decoder, and decode against encode in both code spaces (R70 to R74). -/

namespace Sys2Proof

/-! ## The command decoder, said once -/

/-- Every discriminator is the word of the well-formed command that it decodes to (R72). -/
theorem encode_decodeCommand (f : Byte) :
    (decodeCommand f).wellFormed = true ∧ (decodeCommand f).level = .command ∧ encode (decodeCommand f) = f := by
  unfold decodeCommand
  split_ifs with f22 f21 f10
  · exact ⟨rfl, rfl, f22.symm⟩
  · exact ⟨rfl, rfl, f21.symm⟩
  · exact ⟨rfl, rfl, f10.symm⟩
  · exact ⟨by simp [Instr.wellFormed, Machine.recognised_eq_false f22 f21 f10], rfl, rfl⟩

theorem level_decodeCommand (f : Byte) : (decodeCommand f).level = .command := by
  obtain ⟨-, command, -⟩ := encode_decodeCommand f
  exact command

/-- Decode after encode, for the commands. -/
theorem decodeCommand_encode {i : Instr} (command : i.level = .command) (wf : i.wellFormed = true) :
    decodeCommand (encode i) = i := by
  cases i with
  | dec22 => rfl
  | dec21 => rfl
  | dec10 => rfl
  | decnop f =>
    have unknown : recognised f = false := by simpa [Instr.wellFormed] using wf
    obtain ⟨n22, n21, n10⟩ := Machine.unrecognised_ne unknown
    rw [encode, decodeCommand, if_neg n22, if_neg n21, if_neg n10]
  | rds => cases command
  | rdb d => cases command
  | rd12 d => cases command
  | wgt => cases command
  | endOp => cases command

/-! ## Both code spaces -/

/-- Settles O1: each code space has its own round trip, `decodeCommand_encode` and `decodeUop_encode`. -/
theorem decodeOfEncodeIsTheInstruction : Obligations.DecodeOfEncodeIsTheInstruction := by
  intro i wf
  cases space : i.level with
  | command => exact congrArg Decoded.instr (decodeCommand_encode space wf)
  | micro => exact decodeUop_encode space wf

/-- Settles O2: `encode_decodeCommand` for the commands, `encode_of_decodeUop` for the micro-operations. -/
theorem encodeOfDecodeIsTheWord : Obligations.EncodeOfDecodeIsTheWord := by
  intro l w i decoded
  cases l with
  | command =>
    obtain rfl : decodeCommand w = i := Decoded.instr.inj decoded
    exact encode_decodeCommand w
  | micro =>
    obtain ⟨micro, wf, word⟩ := encode_of_decodeUop decoded
    exact ⟨wf, micro, word⟩

/-! ## Bare words (log entry 13) -/

/-- A bare word of a micro-operation is read as that micro-operation. -/
theorem decodeAnyLevel_encode {i : Instr} (micro : i.level = .micro) (wf : i.wellFormed = true) :
    decodeAnyLevel (encode i) = i := by
  rw [decodeAnyLevel, decodeUop_encode micro wf]

/-- A bare word that is reserved as a micro-operation is read as the command. -/
theorem decodeAnyLevel_of_reserved {w : Byte} {why : Reserved} (reserved : decodeUop w = .reserved why) :
    decodeAnyLevel w = decodeCommand w := by
  rw [decodeAnyLevel, reserved]

theorem decodeTableWord_toNat (w : Byte) : decodeTableWord 8 w.toNat = some (decodeAnyLevel w) := by
  rw [decodeTableWord, if_pos ⟨rfl, w.isLt⟩, BitVec.ofNat_toNat, BitVec.setWidth_eq]

theorem decodeTableWord_micro {i : Instr} (micro : i.level = .micro) (wf : i.wellFormed = true) :
    decodeTableWord 8 (encode i).toNat = some i := by
  rw [decodeTableWord_toNat, decodeAnyLevel_encode micro wf]

theorem decodeTableWord_command {w : Byte} {why : Reserved} (reserved : decodeUop w = .reserved why) :
    decodeTableWord 8 w.toNat = some (decodeCommand w) := by
  rw [decodeTableWord_toNat, decodeAnyLevel_of_reserved reserved]

/-- Settles O7: the first four words are reserved micro-operation words, so they name commands; the other five are the words of
micro-operations. -/
theorem sampleWordsDecode : Obligations.SampleWordsDecode :=
  ⟨decodeTableWord_command (w := 0x16#8) rfl, decodeTableWord_command (w := 0x15#8) rfl,
    decodeTableWord_command (w := 0x0A#8) rfl, decodeTableWord_command (w := 0x01#8) rfl,
    decodeTableWord_micro (i := .rds) rfl rfl, decodeTableWord_micro (i := .rdb 26#6) rfl rfl,
    decodeTableWord_micro (i := .rd12 26#6) rfl rfl, decodeTableWord_micro (i := .wgt) rfl rfl,
    decodeTableWord_micro (i := .endOp) rfl rfl⟩

end Sys2Proof
end

section
/-! PROOFS. What each instruction leaves unchanged (R18, R19, R25, R28), and the commands that do nothing or fail (R20, R172). -/

namespace Sys2Proof.Machine

/-! ## The commands, by what the block is doing -/

theorem exec_dec22_data {s : State} (idle : s.busy = false) (long : 19 ≤ s.len.toNat) :
    exec .dec22 s = .next (finishedDecode 22#8 38#8 (Memory.read s.fb 0) (value22 s.fb) s) :=
  congrArg Host.Outcome.next (decodeFrame_data (f := 22#8) idle long)

theorem exec_dec21_data {s : State} (idle : s.busy = false) (long : 18 ≤ s.len.toNat) :
    exec .dec21 s = .next (finishedDecode 21#8 36#8 s.scale (value21 s.fb) s) :=
  congrArg Host.Outcome.next (decodeFrame_data (f := 21#8) idle long)

theorem exec_dec10_data {s : State} (idle : s.busy = false) (long : 50 ≤ s.len.toNat) :
    exec .dec10 s = .next (finishedDecode 10#8 99#8 s.scale (value10 s.order s.fb) s) :=
  congrArg Host.Outcome.next (decodeFrame_data (f := 10#8) idle long)

/-- A command either is a whole decode of a recognised layout, whose reads end at a nibble index of at most 99, or warns. -/
theorem exec_command_cases {i : Instr} (command : i.level = .command) (s : State) :
    (∃ f cur scale q, recognised f = true ∧ cur.toNat ≤ 99 ∧ exec i s = .next (decodeFrame f cur scale q s))
      ∨ exec i s = .next (if s.busy then s else warnUnrecognised s) := by
  cases i with
  | dec22 => exact .inl ⟨22#8, 38#8, _, _, rfl, by decide, rfl⟩
  | dec21 => exact .inl ⟨21#8, 36#8, _, _, rfl, by decide, rfl⟩
  | dec10 => exact .inl ⟨10#8, 99#8, _, _, rfl, by decide, rfl⟩
  | decnop f => exact .inr rfl
  | rds => cases command
  | rdb d => cases command
  | rd12 d => cases command
  | wgt => cases command
  | endOp => cases command

/-- Settles O28: both kinds of command test `BUSY` first. -/
theorem commandsAreIgnoredWhileBusy : Obligations.CommandsAreIgnoredWhileBusy := by
  intro s i command busy
  rcases exec_command_cases command s with ⟨f, cur, scale, q, -, -, ran⟩ | ran
  · rw [ran, decodeFrame_busy busy]
  · rw [ran, if_pos busy]

/-- What a command of an idle block leaves: an error, the results of a layout, or the warning. -/
theorem exec_command_idle {i : Instr} (command : i.level = .command) {s : State} (idle : s.busy = false) :
    (∃ f, recognised f = true ∧ exec i s = .next (failedDecode f s))
      ∨ (∃ f cur scale q, recognised f = true ∧ cur.toNat ≤ 99 ∧ exec i s = .next (finishedDecode f cur scale q s))
      ∨ exec i s = .next (warnUnrecognised s) := by
  rcases exec_command_cases command s with ⟨f, cur, scale, q, known, bound, ran⟩ | ran
  · rcases Nat.lt_or_ge s.len.toNat (leastLength f) with short | long
    · exact .inl ⟨f, known, by rw [ran, decodeFrame_short idle short]⟩
    · exact .inr (.inl ⟨f, cur, scale, q, known, bound, by rw [ran, decodeFrame_data idle long]⟩)
  · exact .inr (.inr (by rw [ran, idle]; rfl))

/-- Every command of an idle block ends with `DONE` at once (R211). -/
theorem done_of_command {i : Instr} (command : i.level = .command) {s t : State} (ran : exec i s = .next t)
    (idle : s.busy = false) : t.done = true := by
  rcases exec_command_idle command idle with ⟨f, -, ends⟩ | ⟨f, cur, scale, q, -, -, ends⟩ | ends <;>
  · obtain rfl := Host.Outcome.next.inj (ends.symm.trans ran)
    rfl

/-- Settles O26: below its least length each command is `failedDecode`, which writes no register and not `SCALE`. -/
theorem failedCommandsKeepTheHiddenRegisters : Obligations.FailedCommandsKeepTheHiddenRegisters := by
  rintro s i idle (⟨rfl, short⟩ | ⟨rfl, short⟩ | ⟨rfl, short⟩)
  · exact ⟨_, congrArg Host.Outcome.next (decodeFrame_short (f := 22#8) idle short), rfl, rfl, rfl⟩
  · exact ⟨_, congrArg Host.Outcome.next (decodeFrame_short (f := 21#8) idle short), rfl, rfl, rfl⟩
  · exact ⟨_, congrArg Host.Outcome.next (decodeFrame_short (f := 10#8) idle short), rfl, rfl, rfl⟩

/-! ## No instruction writes its inputs (R18, R19, R25, R28) -/

theorem InputsKept.refl (s : State) : InputsKept s s := inputsKept_of_frame rfl

theorem InputsKept.advance {s t : State} (kept : InputsKept s t) (nibbles : Nat) : InputsKept s (t.advance nibbles) :=
  ⟨kept.bytes, kept.stored, kept.len, kept.fmt, kept.resetIn, kept.lrom, kept.order, kept.host, kept.reply, kept.free⟩

theorem inputsKept_setResult (s : State) (n : Fin 39) (w : Word) : InputsKept s (s.setResult n w) := inputsKept_of_frame rfl

theorem inputsKept_setResults (s : State) (v : Vector Word 39) : InputsKept s (s.setResults v) := inputsKept_of_frame rfl

/-- A byte read keeps the inputs if its effect does: the exception writes `STATUS` only. -/
theorem inputsKept_readByteField {k : Byte → State → State} {s : State} (effect : ∀ b, InputsKept s (k b s)) :
    InputsKept s (readByteField k s) := by
  cases fits : byteFits s.cur.toNat s.len.toNat with
  | true => rw [readByteField_fits fits]; exact (effect _).advance 2
  | false => rw [readByteField_short fits]; exact inputsKept_bufferTooShort s

/-- As for a byte read. -/
theorem inputsKept_readPackedField {k : BitVec 12 → State → State} {s : State} (effect : ∀ u, InputsKept s (k u s)) :
    InputsKept s (readPackedField k s) := by
  cases fits : fieldFits s.cur.toNat s.len.toNat with
  | true => rw [readPackedField_fits fits]; exact (effect _).advance 3
  | false => rw [readPackedField_short fits]; exact inputsKept_bufferTooShort s

theorem inputsKept_command {i : Instr} (command : i.level = .command) {s t : State} (ran : exec i s = .next t) :
    InputsKept s t := by
  cases busy : s.busy with
  | true =>
    obtain rfl := Host.Outcome.next.inj ((commandsAreIgnoredWhileBusy s i command busy).symm.trans ran)
    exact .refl s
  | false =>
    rcases exec_command_idle command busy with ⟨f, -, ends⟩ | ⟨f, cur, scale, q, -, -, ends⟩ | ends <;>
      obtain rfl := Host.Outcome.next.inj (ends.symm.trans ran)
    · exact inputsKept_failedDecode f s
    · exact inputsKept_finishedDecode f cur scale q s
    · exact inputsKept_warnUnrecognised s

/-- A micro-operation writes results, `SCALE`, `CUR`, `SEQ` and what `END` and the exception publish, nothing else. -/
theorem inputsKept_micro {i : Instr} (micro : i.level = .micro) {s t : State} (ran : exec i s = .next t) :
    InputsKept s t := by
  cases i with
  | rds => cases ran; exact inputsKept_readByteField fun _ => inputsKept_of_frame rfl
  | rdb d =>
    rcases Nat.lt_or_ge d.toNat 39 with legal | reserved
    · rw [exec_rdb_legal s legal] at ran
      cases ran
      exact inputsKept_readByteField fun _ => inputsKept_setResult s _ _
    · rw [exec_rdb_reserved s reserved] at ran
      cases ran
  | rd12 d =>
    rcases Nat.lt_or_ge d.toNat 39 with legal | reserved
    · rw [exec_rd12_legal s legal] at ran
      cases ran
      exact inputsKept_readPackedField fun _ => inputsKept_setResult s _ _
    · rw [exec_rd12_reserved s reserved] at ran
      cases ran
  | wgt =>
    obtain rfl := Host.Outcome.next.inj ((exec_wgt_next s).symm.trans ran)
    exact (inputsKept_setResults s _).advance 0
  | endOp => cases ran; exact inputsKept_publish s.fmt s
  | dec22 => cases micro
  | dec21 => cases micro
  | dec10 => cases micro
  | decnop f => cases micro

/-- Settles O30: by the two code spaces. -/
theorem noInstructionWritesItsInputs : Obligations.NoInstructionWritesItsInputs := by
  intro i s t ran
  cases space : i.level with
  | command => exact inputsKept_command space ran
  | micro => exact inputsKept_micro space ran

/-- The sequencer's turn writes the inputs neither. -/
theorem inputsKept_sequencerTurn {s t : State} (ran : sequencerTurn s = .next t) : InputsKept s t := by
  rcases sequencerTurn_next ran with ⟨-, rfl⟩ | ⟨-, w, i, -, -, executed⟩
  · exact .refl t
  · exact noInstructionWritesItsInputs i s t executed

/-! ## The host's writes, and the configuration (R24, R26, R28) -/

/-- Everything a host write can do: nothing, or, in an idle block outside reset, a byte of the frame, `LEN`, `FMT` or `START`. -/
theorem portWrite_cases (n : BitVec 8) (v : Word) (s : State) :
    portWrite n v s = s
      ∨ (s.busy = false ∧ s.resetIn = false ∧
          ((n.toNat < 128 ∧ portWrite n v s = { s with fb := Memory.write s.fb n.toNat (v.setWidth 8) })
            ∨ portWrite n v s = { s with len := v.setWidth 7 }
            ∨ portWrite n v s = { s with fmt := v.setWidth 8 }
            ∨ (n = 0x82#8 ∧ v.getLsbD 0 = true ∧ portWrite n v s = start s))) := by
  cases held : s.resetIn with
  | true => exact .inl (portWrite_inReset held)
  | false =>
    cases busy : s.busy with
    | true => exact .inl (portWrite_busy busy)
    | false =>
      simp only [portWrite, writeRegister, held, busy, Bool.false_eq_true, if_false, true_and]
      split_ifs with inFrame isLen isFmt isCtrl bit
      · exact .inr (.inl ⟨inFrame, rfl⟩)
      · exact .inr (.inr (.inl rfl))
      · exact .inr (.inr (.inr (.inl rfl)))
      · exact .inr (.inr (.inr (.inr ⟨isCtrl, bit, rfl⟩)))
      · exact .inl rfl
      · exact .inl rfl

/-- What `START` does to an idle block (R141). -/
theorem start_idle {s : State} (idle : s.busy = false) :
    (recognised s.fmt = true ∧ start s = beginDecode s) ∨ (recognised s.fmt = false ∧ start s = warnUnrecognised s) := by
  cases known : recognised s.fmt with
  | true => exact .inl ⟨rfl, start_recognised idle known⟩
  | false => exact .inr ⟨rfl, start_unrecognised idle known⟩

theorem portWrite_keeps_configuration (n : BitVec 8) (v : Word) (s : State) :
    (portWrite n v s).lrom = s.lrom ∧ (portWrite n v s).order = s.order := by
  rcases portWrite_cases n v s with same | ⟨idle, -, ⟨-, same⟩ | same | same | ⟨-, -, same⟩⟩ <;> rw [same]
  · exact ⟨rfl, rfl⟩
  · exact ⟨rfl, rfl⟩
  · exact ⟨rfl, rfl⟩
  · exact ⟨rfl, rfl⟩
  · rcases start_idle idle with ⟨-, same⟩ | ⟨-, same⟩ <;> rw [same] <;> exact ⟨rfl, rfl⟩

/-- Settles O22, by the host's oldest action: an instruction keeps its inputs, `LROM` and the curve order among them (O30), and
no register number writes them. -/
theorem romNeverChanges : Obligations.RomNeverChanges := by
  intro s t ran
  rcases step_next ran with ⟨-, turn⟩ | ⟨rest, -, turn⟩ | ⟨n, v, rest, -, rfl⟩ | ⟨n, rest, -, rfl⟩ | ⟨rest, -, -, rfl⟩
    | ⟨rest, -, -, executed⟩ | ⟨rest, -, rfl⟩ | ⟨rest, -, turn⟩ | ⟨rest, -, rfl⟩ | ⟨rest, -, rfl⟩
  · have kept := inputsKept_sequencerTurn turn
    exact ⟨kept.lrom, kept.order⟩
  · have kept := inputsKept_sequencerTurn turn
    exact ⟨kept.lrom, kept.order⟩
  · exact portWrite_keeps_configuration n v { s with host := rest }
  · exact ⟨rfl, rfl⟩
  · exact ⟨rfl, rfl⟩
  · have kept := noInstructionWritesItsInputs _ _ _ executed
    exact ⟨kept.lrom, kept.order⟩
  · exact ⟨rfl, rfl⟩
  · have kept := inputsKept_sequencerTurn turn
    exact ⟨kept.lrom, kept.order⟩
  · exact ⟨rfl, rfl⟩
  · exact ⟨rfl, rfl⟩

end Sys2Proof.Machine
end

section
/-! PROOFS. One step by the host's oldest pending action (R10, R50, R78, R142, R200). -/

namespace Sys2Proof.Machine

/-! ## The step for each action; `step_undisturbed`, `step_write` and `step_read` are the others -/

theorem step_pause {s : State} {rest : List HostOp} (h : s.host = .pause :: rest) :
    step s = sequencerTurn { s with host := rest } := by
  rw [step, turn, h]

theorem step_command {s : State} {rest : List HostOp} (h : s.host = .command :: rest) :
    step s = commandTurn { s with host := rest } := by
  rw [step, turn, h]

theorem step_wait {s : State} {rest : List HostOp} (h : s.host = .wait :: rest) : step s = waitTurn rest s := by
  rw [step, turn, h]

theorem step_assertReset {s : State} {rest : List HostOp} (h : s.host = .reset true :: rest) :
    step s = .next (assertReset { s with host := rest }) := by
  rw [step, turn, h]

theorem step_releaseReset {s : State} {rest : List HostOp} (h : s.host = .reset false :: rest) :
    step s = .next (releaseReset { s with host := rest }) := by
  rw [step, turn, h]

theorem commandTurn_held {s : State} (held : s.resetIn = true) : commandTurn s = .next s := if_pos held

theorem commandTurn_released {s : State} (released : s.resetIn = false) :
    commandTurn s = exec (decodeCommand s.fmt) s := if_neg (by simp [released])

/-! ## When the sequencer has a step -/

theorem sequencerEnabled_iff (s : State) : s.sequencerEnabled = true ↔ s.busy = true ∧ s.resetIn = false := by
  simp [State.sequencerEnabled]

theorem sequencerEnabled_eq_false {s : State} (off : s.busy = false ∨ s.resetIn = true) : s.sequencerEnabled = false := by
  rcases off with idle | held
  · simp [State.sequencerEnabled, idle]
  · simp [State.sequencerEnabled, held]

theorem sequencerTurn_runs {s : State} {w : Byte} {i : Instr} (busy : s.busy = true) (released : s.resetIn = false)
    (word : s.lrom[s.seq.toNat]? = some w) (decoded : decode .micro w = .instr i) : sequencerTurn s = exec i s :=
  sequencerTurn_enabled ((sequencerEnabled_iff s).mpr ⟨busy, released⟩) word decoded

/-- Settles O6: the turn is enabled and its fetch finds no word. -/
theorem fetchOutsideRomFaults : Obligations.FetchOutsideRomFaults := by
  intro s ⟨idleHost, released⟩ busy absent
  have on : s.sequencerEnabled = true := (sequencerEnabled_iff s).mpr ⟨busy, released⟩
  have fetched : s.fetch = none := absent
  rw [step_undisturbed idleHost, sequencerTurn, if_pos on, fetched]

/-- Settles O31: each action's step is the turn that it hands on to, and a poll of `WAIT` is `waitTurn_eq`. -/
theorem stepRunsTheDecodedInstruction : Obligations.StepRunsTheDecodedInstruction := by
  refine ⟨fun s w i quiet busy word decoded => ?_, fun s rest w i pending released busy word decoded => ?_,
    fun s rest i pending released decoded => ?_, fun s rest w i pending released busy running word decoded => ?_,
    fun s rest pending released done => ?_⟩
  · obtain ⟨idleHost, released⟩ := quiet
    rw [step_undisturbed idleHost, sequencerTurn_runs busy released word decoded]
  · rw [step_pause pending]
    exact sequencerTurn_runs (s := { s with host := rest }) busy released word decoded
  · obtain rfl : decodeCommand s.fmt = i := Decoded.instr.inj decoded
    rw [step_command pending]
    exact commandTurn_released (s := { s with host := rest }) released
  · rw [step_wait pending, waitTurn_eq rest released, if_neg (by simp [running])]
    exact sequencerTurn_runs
      (s := { s with reply := .value (s.statusWord.setWidth 32), free := s.free + 1 }) busy released word decoded
  · rw [step_wait pending, waitTurn_eq rest released, if_pos done]

/-- Settles O32: without an enabled turn nothing changes. -/
theorem idleStepKeepsTheState : Obligations.IdleStepKeepsTheState := by
  intro s idleHost off
  rw [step_undisturbed idleHost, sequencerTurn_disabled (sequencerEnabled_eq_false off)]

/-! ## The reset line (R200 to R202) -/

/-- Settles O39: asserting writes the reset state; while it is held the turns are disabled and the port drops writes. -/
theorem resetLine : Obligations.ResetLine := by
  refine ⟨fun s rest pending => ?_, fun s rest held => ⟨fun idleHost => ?_, fun pending => ?_, fun n v pending => ?_,
    fun pending => ?_, fun pending => step_releaseReset pending⟩⟩
  · exact ⟨_, step_assertReset pending, rfl, rfl, rfl, rfl, rfl, rfl, rfl, rfl, rfl, rfl, rfl, rfl, rfl, rfl, rfl, rfl⟩
  · exact idleStepKeepsTheState s idleHost (.inr held)
  · rw [step_pause pending]
    exact sequencerTurn_disabled (sequencerEnabled_eq_false (.inr held))
  · rw [step_write pending, portWrite_inReset (s := { s with host := rest }) held]
  · rw [step_command pending]
    exact commandTurn_held (s := { s with host := rest }) held

/-- Settles O40: `State.reset` is written out field by field, and the tables are literals. -/
theorem resetValues : Obligations.ResetValues := ⟨rfl, rfl, rfl, rfl, rfl, rfl, rfl, rfl, rfl, rfl, rfl⟩

end Sys2Proof.Machine
end

section
/-! PROOFS. The invariant: it holds after reset, every step keeps it, and under it no step stops (R17, R29, R143, R200). -/

namespace Sys2Proof.Machine

/-- Settles O45: the reset state has decoded nothing and stands at address 0. -/
theorem resetMeetsTheInvariant : Obligations.ResetMeetsTheInvariant :=
  ⟨reset_memory_wf, rfl, nofun, fun _ => ⟨rfl, rfl, rfl, rfl⟩, nofun, nofun, nofun, nofun, Nat.zero_le _, Nat.zero_le _, nofun⟩

/-! ## What each operation leaves of it -/

/-- The invariant does not speak of the host's side. -/
theorem Inv.of_hostSide {s t : State} (inv : Inv s)
    (side : t = { s with host := t.host, reply := t.reply, free := t.free }) : Inv t := by
  rw [side]
  exact ⟨inv.memory, inv.rom, inv.busyNotDone, inv.nothingYet, inv.errOutcome, inv.warnOutcome, inv.dataOutcome, inv.inProgram,
    inv.curBound, inv.seqBound, inv.heldInReset⟩

theorem programPoint_bounds {f : Byte} {seq cur : Nat} (point : programPoint f seq cur) : cur ≤ 99 ∧ seq ≤ 0x44 := by
  rcases point with h | h | h <;> omega

theorem toNat_lbase_le {f : Byte} (known : recognised f = true) : (lbase f).toNat ≤ 0x44 := by
  rcases (recognised_iff f).mp known with rfl | rfl | rfl <;> decide

theorem toNat_lend_le {f : Byte} (known : recognised f = true) : (lend f).toNat ≤ 0x44 := by
  rcases (recognised_iff f).mp known with rfl | rfl | rfl <;> decide

/-- Outside reset there is nothing to hold. -/
theorem not_held {s : State} (released : s.resetIn = false) : ¬ s.resetIn = true := by simp [released]

theorem inv_bufferTooShort {s : State} (inv : Inv s) (busy : s.busy = true) : Inv (bufferTooShort s) := by
  obtain ⟨present, unit, warn⟩ := nothingYet_of_busy inv busy
  have released := released_of_busy inv busy
  have noWarn : ¬ s.warn = true := by simp [warn]
  exact ⟨inv.memory, inv.rom, nofun, nofun, fun _ => ⟨rfl, warn, present, unit⟩, fun warned => absurd warned noWarn, nofun, nofun,
    inv.curBound, inv.seqBound, fun held => absurd held (not_held released)⟩

theorem inv_of_progress {s t : State} (inv : Inv s) (busy : s.busy = true) (progress : Progress s t) : Inv t := by
  have released := released_of_busy inv busy
  have point := progress.point
  obtain ⟨cur, seq⟩ := programPoint_bounds point
  rw [progress.frame]
  exact ⟨inv.memory, inv.rom, inv.busyNotDone, inv.nothingYet, inv.errOutcome, inv.warnOutcome, inv.dataOutcome, fun _ => point,
    cur, seq, fun held => absurd held (not_held released)⟩

/-- Publishing a layout's results is a data outcome where no flag is set. -/
theorem inv_publish {s : State} {f : Byte} (memory : Memory.wf s.fb = true) (rom : s.lrom = lromImage s.order)
    (err : s.err = false) (warn : s.warn = false) (known : recognised f = true) (cur : s.cur.toNat ≤ 99)
    (seq : s.seq.toNat ≤ 0x44) (released : s.resetIn = false) : Inv (publish f s) where
  memory := memory
  rom := rom
  busyNotDone := nofun
  nothingYet := nofun
  errOutcome raised := by simp [err] at raised
  warnOutcome raised := by simp [warn] at raised
  dataOutcome _ := ⟨f, known, rfl, rfl⟩
  inProgram := nofun
  curBound := cur
  seqBound := seq
  heldInReset held := absurd held (not_held released)

theorem inv_beginDecode {s : State} (inv : Inv s) (released : s.resetIn = false) (known : recognised s.fmt = true) :
    Inv (beginDecode s) :=
  ⟨inv.memory, inv.rom, fun _ => rfl, fun _ => ⟨rfl, rfl, rfl, rfl⟩, nofun, nofun, nofun, fun _ => programPoint_lbase known,
    Nat.zero_le _, toNat_lbase_le known, fun held => absurd held (not_held released)⟩

theorem inv_warnUnrecognised {s : State} (inv : Inv s) (idle : s.busy = false) (released : s.resetIn = false) :
    Inv (warnUnrecognised s) := by
  have notBusy : ¬ s.busy = true := by simp [idle]
  exact ⟨inv.memory, inv.rom, fun busy => absurd busy notBusy, nofun, nofun, fun _ => ⟨rfl, rfl, rfl, rfl⟩, nofun,
    fun busy => absurd busy notBusy, Nat.zero_le _, inv.seqBound, fun held => absurd held (not_held released)⟩

theorem inv_start {s : State} (inv : Inv s) (idle : s.busy = false) (released : s.resetIn = false) : Inv (start s) := by
  rcases start_idle idle with ⟨known, same⟩ | ⟨-, same⟩ <;> rw [same]
  · exact inv_beginDecode inv released known
  · exact inv_warnUnrecognised inv idle released

theorem inv_failedDecode {s : State} {f : Byte} (inv : Inv s) (released : s.resetIn = false) (known : recognised f = true) :
    Inv (failedDecode f s) :=
  ⟨inv.memory, inv.rom, nofun, nofun, fun _ => ⟨rfl, rfl, rfl, rfl⟩, nofun, nofun, nofun, Nat.zero_le _, toNat_lbase_le known,
    fun held => absurd held (not_held released)⟩

theorem inv_finishedDecode {s : State} {f : Byte} {cur : BitVec 8} (scale : Byte) (q : Nat → Option Int) (inv : Inv s)
    (released : s.resetIn = false) (known : recognised f = true) (bound : cur.toNat ≤ 99) :
    Inv (finishedDecode f cur scale q s) :=
  inv_publish inv.memory inv.rom rfl rfl known bound (toNat_lend_le known) released

theorem statusWord_assertReset (s : State) : (assertReset s).statusWord = 0#4 := by
  rw [State.statusWord, assertReset_busy, assertReset_done, assertReset_err, assertReset_warn]
  rfl

theorem inv_assertReset {s : State} (inv : Inv s) : Inv (assertReset s) :=
  ⟨inv.memory, inv.rom, nofun, fun _ => ⟨rfl, rfl, rfl, rfl⟩, nofun, nofun, nofun, nofun, Nat.zero_le _, Nat.zero_le _,
    fun _ => ⟨statusWord_assertReset s, rfl, rfl, rfl, rfl, rfl, rfl⟩⟩

theorem inv_releaseReset {s : State} (inv : Inv s) : Inv (releaseReset s) :=
  ⟨inv.memory, inv.rom, inv.busyNotDone, inv.nothingYet, inv.errOutcome, inv.warnOutcome, inv.dataOutcome, inv.inProgram,
    inv.curBound, inv.seqBound, nofun⟩

/-- Writing an input of an idle block outside reset keeps the invariant, where the frame buffer stays canonical: only a running or
a held block constrains `FMT` and `LEN`. -/
theorem Inv.of_inputs {s : State} (inv : Inv s) (idle : s.busy = false) (released : s.resetIn = false) {m : Memory}
    (memory : Memory.wf m = true) (l : BitVec 7) (f : Byte) : Inv { s with fb := m, len := l, fmt := f } := by
  have notBusy : ¬ s.busy = true := by simp [idle]
  exact ⟨memory, inv.rom, inv.busyNotDone, inv.nothingYet, inv.errOutcome, inv.warnOutcome, inv.dataOutcome,
    fun busy => absurd busy notBusy, inv.curBound, inv.seqBound, fun held => absurd held (not_held released)⟩

/-! ## What each turn leaves of it -/

/-- Everything the sequencer's turn can do under the invariant: nothing, the exception, progress, or at the program's last word
the publication of the results. -/
theorem sequencerTurn_of_inv {s : State} (inv : Inv s) :
    (s.sequencerEnabled = false ∧ sequencerTurn s = .next s)
      ∨ (s.busy = true ∧ sequencerTurn s = .next (bufferTooShort s))
      ∨ (s.busy = true ∧ ∃ t, sequencerTurn s = .next t ∧ Progress s t)
      ∨ (s.busy = true ∧ sequencerTurn s = .next (publish s.fmt s)) := by
  cases on : s.sequencerEnabled with
  | false => exact .inl ⟨rfl, sequencerTurn_disabled on⟩
  | true =>
    obtain ⟨busy, -⟩ := (sequencerEnabled_iff s).mp on
    rcases sequencerTurn_cases inv.rom on (inv.inProgram busy) with ⟨-, short⟩ | ⟨-, -, t, ran, progress⟩ | ⟨-, -, published⟩
    · exact .inr (.inl ⟨busy, short⟩)
    · exact .inr (.inr (.inl ⟨busy, t, ran, progress⟩))
    · exact .inr (.inr (.inr ⟨busy, published⟩))

theorem inv_sequencerTurn {s t : State} (inv : Inv s) (ran : sequencerTurn s = .next t) : Inv t := by
  rcases sequencerTurn_of_inv inv with ⟨-, same⟩ | ⟨busy, short⟩ | ⟨busy, u, moved, progress⟩ | ⟨busy, published⟩
  · obtain rfl := Host.Outcome.next.inj (same.symm.trans ran)
    exact inv
  · obtain rfl := Host.Outcome.next.inj (short.symm.trans ran)
    exact inv_bufferTooShort inv busy
  · obtain rfl := Host.Outcome.next.inj (moved.symm.trans ran)
    exact inv_of_progress inv busy progress
  · obtain rfl := Host.Outcome.next.inj (published.symm.trans ran)
    obtain ⟨err, warn, -⟩ := inv.nothingYet (inv.busyNotDone busy)
    exact inv_publish inv.memory inv.rom err warn ((recognised_iff _).mpr (format_of_programPoint (inv.inProgram busy)))
      inv.curBound inv.seqBound (released_of_busy inv busy)

theorem inv_portWrite (n : BitVec 8) (v : Word) {s : State} (inv : Inv s) : Inv (portWrite n v s) := by
  rcases portWrite_cases n v s with same | ⟨idle, released, ⟨inFrame, same⟩ | same | same | ⟨-, -, same⟩⟩ <;> rw [same]
  · exact inv
  · exact inv.of_inputs idle released (wf_write inv.memory inFrame _) s.len s.fmt
  · exact inv.of_inputs idle released inv.memory (v.setWidth 7) s.fmt
  · exact inv.of_inputs idle released inv.memory s.len (v.setWidth 8)
  · exact inv_start inv idle released

theorem inv_command {i : Instr} (command : i.level = .command) {s t : State} (inv : Inv s) (released : s.resetIn = false)
    (ran : exec i s = .next t) : Inv t := by
  cases busy : s.busy with
  | true =>
    obtain rfl := Host.Outcome.next.inj ((commandsAreIgnoredWhileBusy s i command busy).symm.trans ran)
    exact inv
  | false =>
    rcases exec_command_idle command busy with ⟨f, known, ends⟩ | ⟨f, cur, scale, q, known, bound, ends⟩ | ends <;>
      obtain rfl := Host.Outcome.next.inj (ends.symm.trans ran)
    · exact inv_failedDecode inv released known
    · exact inv_finishedDecode scale q inv released known bound
    · exact inv_warnUnrecognised inv busy released

/-! ## The step -/

/-- Settles O46: by the host's oldest action, each with the lemma of what its turn leaves of the invariant. -/
theorem everyStepKeepsTheInvariant : Obligations.EveryStepKeepsTheInvariant := by
  intro s t inv ran
  rcases step_next ran with ⟨-, turn⟩ | ⟨rest, -, turn⟩ | ⟨n, v, rest, -, rfl⟩ | ⟨n, rest, -, rfl⟩ | ⟨rest, -, -, rfl⟩
    | ⟨rest, -, released, executed⟩ | ⟨rest, -, rfl⟩ | ⟨rest, -, turn⟩ | ⟨rest, -, rfl⟩ | ⟨rest, -, rfl⟩
  · exact inv_sequencerTurn inv turn
  · exact inv_sequencerTurn (inv.of_hostSide rfl) turn
  · exact inv_portWrite n v (inv.of_hostSide rfl)
  · exact inv.of_hostSide rfl
  · exact inv.of_hostSide rfl
  · exact inv_command (s := { s with host := rest }) (level_decodeCommand s.fmt) (inv.of_hostSide rfl) released executed
  · exact inv.of_hostSide rfl
  · exact inv_sequencerTurn (inv.of_hostSide rfl) turn
  · exact inv_assertReset (inv.of_hostSide rfl)
  · exact inv_releaseReset (inv.of_hostSide rfl)

theorem sequencerTurn_answers {s : State} (inv : Inv s) : ∃ t, sequencerTurn s = .next t := by
  rcases sequencerTurn_of_inv inv with ⟨-, ran⟩ | ⟨-, ran⟩ | ⟨-, u, ran, -⟩ | ⟨-, ran⟩ <;> exact ⟨_, ran⟩

theorem commandTurn_answers (s : State) : ∃ t, commandTurn s = .next t := by
  cases held : s.resetIn with
  | true => exact ⟨s, commandTurn_held held⟩
  | false =>
    rw [commandTurn_released held]
    rcases exec_command_cases (level_decodeCommand s.fmt) s with ⟨f, cur, scale, q, -, -, ran⟩ | ran <;> exact ⟨_, ran⟩

theorem waitTurn_answers (rest : List HostOp) {s : State} (inv : Inv s) : ∃ t, waitTurn rest s = .next t := by
  unfold waitTurn
  split_ifs
  · exact ⟨_, rfl⟩
  · exact sequencerTurn_answers (inv.of_hostSide rfl)

/-- Settles O47: by the host's oldest action; only the sequencer could stop, and inside its program it does not. -/
theorem nothingStopsARun : Obligations.NothingStopsARun := by
  intro s inv
  cases pending : s.host with
  | nil => rw [step_undisturbed pending]; exact sequencerTurn_answers inv
  | cons action rest =>
    cases action with
    | pause => rw [step_pause pending]; exact sequencerTurn_answers (inv.of_hostSide rfl)
    | write n v => exact ⟨_, step_write pending⟩
    | read n => exact ⟨_, step_read pending⟩
    | command => rw [step_command pending]; exact commandTurn_answers _
    | wait => rw [step_wait pending]; exact waitTurn_answers rest inv
    | reset level =>
      cases level with
      | true => exact ⟨_, step_assertReset pending⟩
      | false => exact ⟨_, step_releaseReset pending⟩

end Sys2Proof.Machine
end

section
/-! PROOFS. How a decode runs and ends, and how long its results stay (R50, R144, R177, R201, R209). -/

namespace Sys2Proof.Machine

/-! ## A running decode (R15, R16, R144) -/

/-- Settles O44: an undisturbed step is the sequencer's turn, which ends the decode where it stands or makes progress inside the
program. -/
theorem sequencerIsStraightLine : Obligations.SequencerIsStraightLine := by
  intro s inv ⟨idleHost, released⟩ busy
  have on : s.sequencerEnabled = true := (sequencerEnabled_iff s).mpr ⟨busy, released⟩
  rw [step_undisturbed idleHost]
  rcases sequencerTurn_of_inv inv with ⟨off, -⟩ | ⟨-, short⟩ | ⟨-, t, ran, progress⟩ | ⟨-, published⟩
  · exact absurd on (by simp [off])
  · exact ⟨_, short, .inr ⟨rfl, rfl, rfl, rfl⟩, le_refl _, inv.curBound, inv.seqBound⟩
  · have status : t.busy = s.busy ∧ t.done = s.done := by rw [progress.frame]; exact ⟨rfl, rfl⟩
    obtain ⟨stillBusy, notDone⟩ := status
    obtain ⟨cur, seq⟩ := programPoint_bounds progress.point
    exact ⟨t, ran, .inl ⟨stillBusy.trans busy, notDone.trans (inv.busyNotDone busy), progress.seq⟩, progress.cur, cur, seq⟩
  · exact ⟨_, published, .inr ⟨rfl, rfl, rfl, rfl⟩, le_refl _, inv.curBound, inv.seqBound⟩

/-- A step that ends the decode did not leave the block busy. -/
theorem ne_of_ended {t u : State} (ended : t.busy = false) (busy : u.busy = true) : t ≠ u := by
  rintro rfl
  exact absurd busy (by simp [ended])

/-- The sequencer clears `BUSY` only where it sets `DONE` (R147, R172). -/
theorem done_of_sequencerTurn {s t : State} (ran : sequencerTurn s = .next t) (inv : Inv s) (busy : s.busy = true)
    (ended : t.busy = false) : t.done = true := by
  rcases sequencerTurn_of_inv inv with ⟨-, same⟩ | ⟨-, short⟩ | ⟨-, u, moved, progress⟩ | ⟨-, published⟩
  · exact absurd (Host.Outcome.next.inj (ran.symm.trans same)) (ne_of_ended ended busy)
  · rw [Host.Outcome.next.inj (ran.symm.trans short), bufferTooShort_done]
  · have still : u.busy = s.busy := by rw [progress.frame]
    exact absurd (Host.Outcome.next.inj (ran.symm.trans moved)) (ne_of_ended ended (still.trans busy))
  · rw [Host.Outcome.next.inj (ran.symm.trans published), publish_done]

/-- Settles O43: while busy the port and the commands do nothing (R20, R208), so it is the sequencer that ends the decode, or
reset. -/
theorem decodeEndsWithDoneOrReset : Obligations.DecodeEndsWithDoneOrReset := by
  intro s t inv busy ran ended
  rcases step_next ran with ⟨-, turn⟩ | ⟨rest, -, turn⟩ | ⟨n, v, rest, -, wrote⟩ | ⟨n, rest, -, read⟩ | ⟨rest, -, -, same⟩
    | ⟨rest, -, -, executed⟩ | ⟨rest, -, read⟩ | ⟨rest, -, turn⟩ | ⟨rest, pending, -⟩ | ⟨rest, -, released⟩
  · exact .inl (done_of_sequencerTurn turn inv busy ended)
  · exact .inl (done_of_sequencerTurn turn (inv.of_hostSide rfl) busy ended)
  · rw [portWrite_busy (s := { s with host := rest }) busy] at wrote
    exact absurd wrote (ne_of_ended ended busy)
  · exact absurd read (ne_of_ended ended busy)
  · exact absurd same (ne_of_ended ended busy)
  · have ignored := commandsAreIgnoredWhileBusy { s with host := rest } _ (level_decodeCommand s.fmt) busy
    exact absurd (Host.Outcome.next.inj (executed.symm.trans ignored)) (ne_of_ended ended busy)
  · exact absurd read (ne_of_ended ended busy)
  · exact .inl (done_of_sequencerTurn turn (inv.of_hostSide rfl) busy ended)
  · exact .inr ⟨rest, pending⟩
  · exact absurd released (ne_of_ended ended busy)

/-! ## A finished decode (R50, R209) -/

theorem idle_of_done {s : State} (inv : Inv s) (done : s.done = true) : s.busy = false := by
  cases busy : s.busy with
  | false => rfl
  | true => exact absurd done (by simp [inv.busyNotDone busy])

/-- The observation shows `DONE`. -/
theorem done_of_sameObservation {s t : State} (same : SameObservation s t) : s.done = t.done := by
  obtain ⟨status, -⟩ := same
  rw [← statusWord_shows_done s, status, statusWord_shows_done t]

/-- An idle block's sequencer leaves everything. -/
theorem eq_of_sequencerTurn_idle {s t : State} (ran : sequencerTurn s = .next t) (idle : s.busy = false) : t = s :=
  Host.Outcome.next.inj (ran.symm.trans (sequencerTurn_disabled (sequencerEnabled_eq_false (.inl idle))))

/-- Only a write of 1 to bit 0 of `CTRL` changes the observation: the other registers that a write reaches are inputs. -/
theorem portWrite_sameObservation (n : BitVec 8) (v : Word) (s : State) :
    SameObservation s (portWrite n v s) ∨ (n = 0x82#8 ∧ v.getLsbD 0 = true ∧ s.busy = false) := by
  rcases portWrite_cases n v s with same | ⟨idle, -, ⟨-, same⟩ | same | same | ⟨isCtrl, bit, -⟩⟩
  case inr.inr.inr.inr => exact .inr ⟨isCtrl, bit, idle⟩
  all_goals
    rw [same]
    exact .inl ⟨rfl, rfl, rfl, fun _ => rfl⟩

/-- What can happen to a finished decode in one step: it is shown as before, or the host took a `START` at either level or a
reset. At the command level the next decode is done at once. -/
theorem step_of_done {s t : State} (inv : Inv s) (done : s.done = true) (ran : step s = .next t) :
    SameObservation s t
      ∨ (∃ rest v, s.host = .write 0x82#8 v :: rest ∧ v.getLsbD 0 = true ∧ s.busy = false)
      ∨ (∃ rest, s.host = .command :: rest ∧ t.done = true)
      ∨ ∃ rest, s.host = .reset true :: rest := by
  have idle := idle_of_done inv done
  rcases step_next ran with ⟨-, turn⟩ | ⟨rest, -, turn⟩ | ⟨n, v, rest, pending, rfl⟩ | ⟨n, rest, -, rfl⟩ | ⟨rest, -, -, rfl⟩
    | ⟨rest, pending, -, executed⟩ | ⟨rest, -, rfl⟩ | ⟨rest, -, turn⟩ | ⟨rest, pending, rfl⟩ | ⟨rest, -, rfl⟩
  · rw [eq_of_sequencerTurn_idle turn idle]
    exact .inl ⟨rfl, rfl, rfl, fun _ => rfl⟩
  · rw [eq_of_sequencerTurn_idle turn idle]
    exact .inl ⟨rfl, rfl, rfl, fun _ => rfl⟩
  · rcases portWrite_sameObservation n v { s with host := rest } with same | ⟨rfl, bit, -⟩
    · exact .inl same
    · exact .inr (.inl ⟨rest, v, pending, bit, idle⟩)
  · exact .inl ⟨rfl, rfl, rfl, fun _ => rfl⟩
  · exact .inl ⟨rfl, rfl, rfl, fun _ => rfl⟩
  · exact .inr (.inr (.inl ⟨rest, pending, done_of_command (level_decodeCommand _) executed idle⟩))
  · exact .inl ⟨rfl, rfl, rfl, fun _ => rfl⟩
  · rw [eq_of_sequencerTurn_idle turn idle]
    exact .inl ⟨rfl, rfl, rfl, fun _ => rfl⟩
  · exact .inr (.inr (.inr ⟨rest, pending⟩))
  · exact .inl ⟨rfl, rfl, rfl, fun _ => rfl⟩

/-- Settles O41: the excluded actions are the only ones of `step_of_done` that change the observation, and `START` (O33) clears
`PRESENT` whatever the format. -/
theorem resultsStayUntilTheNextStart : Obligations.ResultsStayUntilTheNextStart := by
  refine ⟨fun s t inv done ran noStart noCommand noReset => ?_, fun s rest v pending released bit idle => ?_⟩
  · rcases step_of_done inv done ran with same | ⟨rest, v, pending, bit, -⟩ | ⟨rest, pending, -⟩ | ⟨rest, pending⟩
    · exact same
    · exact absurd bit (by rw [noStart rest v pending]; exact Bool.false_ne_true)
    · exact absurd pending (noCommand rest)
    · exact absurd pending (noReset rest)
  · obtain ⟨-, starts⟩ := startBeginsOrWarns s rest v pending released bit
    obtain ⟨t, ran, -, -, present, unit, -⟩ := starts idle
    exact ⟨t, ran, present, unit, fun n => result?_absent (by rw [present]; exact BitVec.getLsbD_zero)⟩

/-- Settles O42: of the ways of `step_of_done`, the unchanged observation and the command keep `DONE`. -/
theorem irqDoneFallsOnlyAtStartOrReset : Obligations.IrqDoneFallsOnlyAtStartOrReset := by
  refine ⟨fun _ => rfl, fun s t inv ran high low => ?_⟩
  have fell : ¬ t.done = true := by
    have notDone : t.done = false := low
    simp [notDone]
  rcases step_of_done inv high ran with same | ⟨rest, v, starts⟩ | ⟨rest, -, done⟩ | resets
  · exact absurd ((done_of_sameObservation same).symm.trans high) fell
  · exact .inl ⟨rest, v, starts⟩
  · exact absurd done fell
  · exact .inr resets

end Sys2Proof.Machine
end

section
/-! PROOFS. The host port of an idle block, number by number (R20, R25, R26). -/

namespace Sys2Proof.Machine

/-! ## CTRL (R20) -/

theorem readRegister_ctrl (s : State) : readRegister 0x82#8 s = .value 0#32 := rfl

/-- Writing 0 to bit 0 of `CTRL` does nothing. -/
theorem portWrite_ctrl_clear {v : Word} (bit : v.getLsbD 0 = false) (s : State) : portWrite 0x82#8 v s = s := by
  cases held : s.resetIn with
  | true => exact portWrite_inReset held
  | false =>
    cases busy : s.busy with
    | true => exact portWrite_busy busy
    | false =>
      simp only [portWrite, held, writeRegister, busy, bit, Bool.false_eq_true, if_false]
      rfl

/-- `CTRL` has one bit: two words with the same bit 0 do the same. -/
theorem portWrite_ctrl_congr {v w : Word} (bit : v.getLsbD 0 = w.getLsbD 0) (s : State) :
    portWrite 0x82#8 v s = portWrite 0x82#8 w s := by
  cases held : s.resetIn with
  | true => rw [portWrite_inReset held, portWrite_inReset held]
  | false =>
    cases set : v.getLsbD 0 with
    | true => rw [portWrite_ctrl held set, portWrite_ctrl held (bit.symm.trans set)]
    | false => rw [portWrite_ctrl_clear set, portWrite_ctrl_clear (bit.symm.trans set)]

theorem getLsbD_zero_and_one (v : Word) : (v &&& 1#32).getLsbD 0 = v.getLsbD 0 := by
  rw [BitVec.getLsbD_and]
  exact Bool.and_true _

/-- Settles O34: a clear bit and a busy block drop the write, and the port looks at bit 0 alone (`portWrite_ctrl_congr`). -/
theorem ctrlHasOneBit : Obligations.CtrlHasOneBit := by
  refine ⟨fun s rest v pending => ⟨fun dropped => ?_, ?_⟩, fun s rest pending released => ?_⟩
  · rw [step_write pending]
    rcases dropped with clear | busy
    · rw [portWrite_ctrl_clear clear]
    · rw [portWrite_busy (s := { s with host := rest }) busy]
  · rw [step_write pending, step_write (s := { s with host := _ }) rfl]
    exact congrArg Host.Outcome.next (portWrite_ctrl_congr (getLsbD_zero_and_one v).symm _)
  · obtain ⟨t, ran, reply⟩ := step_read_reply pending released
    exact ⟨t, ran, reply.trans (readRegister_ctrl s)⟩

/-! ## Reads (R26) -/

/-- `STATUS` as a number: `BUSY` weighs 1, `DONE` 2, `ERR` 4 and `WARN` 8 (R17). -/
theorem toNat_statusWord (s : State) :
    (s.statusWord.setWidth 32).toNat
      = (if s.busy then 1 else 0) + (if s.done then 2 else 0) + (if s.err then 4 else 0) + (if s.warn then 8 else 0) := by
  rw [State.statusWord]
  cases s.busy <;> cases s.done <;> cases s.err <;> cases s.warn <;> rfl

theorem toNat_presentLo (s : State) : s.presentLo.toNat = s.present.toNat % 2 ^ 32 := by
  rw [State.presentLo, BitVec.extractLsb'_toNat, Nat.shiftRight_zero]

theorem toNat_presentHi (s : State) : s.presentHi.toNat = s.present.toNat / 2 ^ 32 := by
  have bound : s.present.toNat < 2 ^ 39 := s.present.isLt
  rw [State.presentHi, BitVec.toNat_setWidth_of_le (by decide), BitVec.extractLsb'_toNat, Nat.shiftRight_eq_div_pow]
  omega

/-- A result register by its number: its word where its presence bit is 1 (R14). -/
theorem readRegister_result {n : BitVec 8} {k : Nat} (legal : k ≤ 38) (number : n.toNat = 0xC0 + k) (s : State) :
    readRegister n s = if s.present.getLsbD k then .value (s.word k) else .noValue := by
  have inRange : k < 39 := Nat.lt_succ_of_le legal
  obtain rfl : n = regResult ⟨k, inRange⟩ := BitVec.eq_of_toNat_eq (number.trans (toNat_regResult ⟨k, inRange⟩).symm)
  rw [readRegister_regResult, word_eq_getResult s inRange]
  cases bit : s.present.getLsbD k with
  | true => rw [replyOfResult, result?_present bit]; rfl
  | false => rw [replyOfResult_absent bit]; rfl

/-- A number that the map does not name answers some word (U6). -/
theorem readRegister_reserved {n : BitVec 8} (reserved : (0x87 ≤ n.toNat ∧ n.toNat ≤ 0xBF) ∨ 0xE7 ≤ n.toNat) (s : State) :
    readRegister n s = .value (Config.unspecifiedRead s.free n) := by
  have named : ∀ k : BitVec 8, k.toNat < 0x87 → n ≠ k := by
    rintro k low rfl
    omega
  have notFrame : ¬ n.toNat < 128 := by omega
  have notResult : ¬ (192 ≤ n.toNat ∧ n.toNat < 231) := by omega
  simp (disch := decide) only [readRegister, if_neg notFrame, named, if_false, dif_neg notResult]

/-- Outside reset a host read answers what the register reads as; around that it takes the action off the list and counts a free
value. -/
theorem step_read_frame {s : State} {n : BitVec 8} {rest : List HostOp} (pending : s.host = .read n :: rest)
    (released : s.resetIn = false) :
    step s = .next { s with host := rest, reply := readRegister n s, free := s.free + 1 } := by
  have reply : (portRead n { s with host := rest }).reply = readRegister n s :=
    portRead_reply (s := { s with host := rest }) released
  rw [step_read pending, portRead_eq, reply]

/-- Settles O36: the read is `step_read_frame`, and each number of the map has its lemma. -/
theorem hostReadsEveryRegister : Obligations.HostReadsEveryRegister := by
  intro s rest n pending released
  refine ⟨_, step_read_frame pending released, rfl, fun inFrame => readRegister_frame inFrame s, ?_, ?_, ?_, ?_, ?_, ?_, ?_,
    fun k legal number => readRegister_result legal number s, fun reserved => ⟨_, readRegister_reserved reserved s⟩⟩ <;>
    rintro rfl
  · exact readRegister_len s
  · exact readRegister_fmt s
  · exact readRegister_ctrl s
  · exact ⟨_, readRegister_status s, toNat_statusWord s⟩
  · exact readRegister_unit s
  · exact ⟨_, readRegister_presentLo s, toNat_presentLo s⟩
  · exact ⟨_, readRegister_presentHi s, toNat_presentHi s⟩

/-! ## Writes (R18, R19, R25, R26) -/

section IdleWrites

variable {s : State} (idle : s.busy = false) (released : s.resetIn = false)
include idle released

theorem portWrite_frame {n : BitVec 8} (inFrame : n.toNat < 128) (v : Word) :
    portWrite n v s = { s with fb := Memory.write s.fb n.toNat (v.setWidth 8) } := by
  simp [portWrite, released, writeRegister, idle, inFrame]

theorem portWrite_len (v : Word) : portWrite 0x80#8 v s = { s with len := v.setWidth 7 } := by
  simp [portWrite, released, writeRegister, idle, regLEN]

theorem portWrite_fmt (v : Word) : portWrite 0x81#8 v s = { s with fmt := v.setWidth 8 } := by
  simp [portWrite, released, writeRegister, idle, regLEN, regFMT]

/-- The read-only and the reserved numbers ignore a write (U6). -/
theorem portWrite_ignored {n : BitVec 8} (notFrame : 128 ≤ n.toNat) (notLen : n ≠ 0x80#8) (notFmt : n ≠ 0x81#8)
    (notCtrl : n ≠ 0x82#8) (v : Word) : portWrite n v s = s := by
  simp [portWrite, released, writeRegister, idle, Nat.not_lt.mpr notFrame, regLEN, regFMT, regCTRL, notLen, notFmt, notCtrl]

end IdleWrites

/-- The bytes of the frame buffer after a write to one of them, as stored and as read. -/
theorem write_keeps_others (m : Memory) {a x : Nat} (v : Byte) (other : x ≠ a) :
    Memory.stored (Memory.write m a v) x = Memory.stored m x ∧ Memory.read (Memory.write m a v) x = Memory.read m x :=
  ⟨by rw [stored_write, if_neg other], read_write_other m v other⟩

/-- Settles O37: by the register number, each kind with the port's lemma for it. -/
theorem hostWritesEveryRegister : Obligations.HostWritesEveryRegister := by
  intro s rest n v pending released idle notCtrl
  refine ⟨_, step_write pending, ?_⟩
  rcases Nat.lt_or_ge n.toNat 128 with inFrame | notFrame
  · have notLen : n ≠ 0x80#8 := by rintro rfl; exact absurd inFrame (by decide)
    have notFmt : n ≠ 0x81#8 := by rintro rfl; exact absurd inFrame (by decide)
    rw [portWrite_frame (s := { s with host := rest }) idle released inFrame, if_neg notLen, if_neg notFmt]
    exact ⟨rfl, fun a other => write_keeps_others s.fb _ other, fun _ => by rw [stored_write, if_pos rfl],
      fun above => absurd inFrame (Nat.not_lt.mpr above), rfl, rfl⟩
  · have below : ¬ n.toNat < 128 := Nat.not_lt.mpr notFrame
    by_cases isLen : n = 0x80#8
    · subst isLen
      rw [portWrite_len (s := { s with host := rest }) idle released]
      exact ⟨rfl, fun _ _ => ⟨rfl, rfl⟩, fun inFrame => absurd inFrame below, fun _ => rfl, rfl, rfl⟩
    · by_cases isFmt : n = 0x81#8
      · subst isFmt
        rw [portWrite_fmt (s := { s with host := rest }) idle released]
        exact ⟨rfl, fun _ _ => ⟨rfl, rfl⟩, fun inFrame => absurd inFrame below, fun _ => rfl, rfl, rfl⟩
      · rw [portWrite_ignored (s := { s with host := rest }) idle released notFrame isLen isFmt notCtrl, if_neg isLen,
          if_neg isFmt]
        exact ⟨rfl, fun _ _ => ⟨rfl, rfl⟩, fun inFrame => absurd inFrame below, fun _ => rfl, rfl, rfl⟩

end Sys2Proof.Machine
end

section
/-! PROOFS. The packed-peak program for every curve order (R117). -/

namespace Sys2Proof.Machine

/-- The instructions of block `m` of the format-10 program, the bands first, for the curve that the order puts there. -/
theorem program_block (o : CurveOrder) : ∀ m : Fin 3, ∀ c ∈ (orderCurves o)[m.val]?,
    (∀ k : Fin 9, (program o)[0x23 + 11 * m.val + k.val]? = some (.rd12 (destination c (.spec k))))
      ∧ (program o)[0x23 + 11 * m.val + 9]? = some (.rd12 (destination c .peak))
      ∧ (program o)[0x23 + 11 * m.val + 10]? = some (.rd12 (destination c .avg)) := by
  cases o <;> decide

/-- The format-10 program has no `WGT`: the two of the ROM stand before it (R114 to R117). -/
theorem program_no_wgt (o : CurveOrder) {a : Nat} (h : 0x23 ≤ a) : (program o)[a]? ≠ some .wgt := by
  intro atA
  have shape := program_check (program_shape o) atA
  simp only [shapeOk, Bool.or_eq_true, decide_eq_true_eq] at shape
  omega

theorem lromImage_of_program {o : CurveOrder} {a : Nat} {i : Instr} (h : (program o)[a]? = some i) :
    (lromImage o)[a]? = some (encode i) := by
  have image : (lromImage o)[a]? = (program o)[a]?.map encode := List.getElem?_map
  rw [image, h, Option.map_some]

/-- The word of a 12-bit read into a named register. -/
theorem encode_rd12_destination (c : Curve) (t : Slot) :
    encode (.rd12 (destination c t)) = 0x80#8 ||| BitVec.ofNat 8 (resultNumber c t) := by
  have inField : resultNumber c t < 64 := by
    have := curveNumber_le c
    cases t with
    | spec k => have := k.isLt; simp only [resultNumber, slotNumber]; omega
    | min => simp only [resultNumber, slotNumber]; omega
    | max => simp only [resultNumber, slotNumber]; omega
    | avg => simp only [resultNumber, slotNumber]; omega
    | peak => simp only [resultNumber, slotNumber]; omega
  have widen : (destination c t).setWidth 8 = BitVec.ofNat 8 (resultNumber c t) := by
    refine BitVec.eq_of_toNat_eq ?_
    rw [BitVec.toNat_setWidth_of_le (by decide), destination, BitVec.toNat_ofNat, BitVec.toNat_ofNat]
    omega
  exact (append_eq_or_setWidth 2#2 _).trans (congrArg (0x80#8 ||| ·) widen)

theorem place_lt {o : CurveOrder} {m : Nat} {c : Curve} (place : (orderCurves o)[m]? = some c) : m < 3 := by
  have := orderPlace_le o c
  have := orderPlace_of_getElem? place
  omega

/-- Settles O21: the words of `program_block`, `END` by `program_endOp_iff`, and no `WGT` by `program_no_wgt`. -/
theorem packedPeakProgramForEveryOrder : Obligations.PackedPeakProgramForEveryOrder := by
  intro o c m place
  obtain ⟨bands, peak, average⟩ := program_block o ⟨m, place_lt place⟩ c place
  refine ⟨fun k small => ?_, ?_, ?_, ?_, fun a above word => ?_⟩
  · have number : resultNumber c (.spec ⟨k, by omega⟩) = 13 * curveNumber c + 4 + k := (Nat.add_assoc _ _ _).symm
    rw [lromImage_of_program (bands ⟨k, by omega⟩), encode_rd12_destination, number]
  · rw [lromImage_of_program peak, encode_rd12_destination]; rfl
  · rw [lromImage_of_program average, encode_rd12_destination]; rfl
  · exact lromImage_of_program ((program_endOp_iff o 0x44).mpr (.inr (.inr rfl)))
  · exact program_no_wgt o above ((lromImage_eq_encode_iff (i := .wgt) rfl rfl).mp word)

end Sys2Proof.Machine
end

section
/-! PROOFS. What the registers hold and denote after a decode with data (R7, R149 to R152), absent ones included (R14). -/

namespace Sys2Proof.Machine

/-! ## The registers that a layout leaves absent (R13) -/

theorem absent_22 : ∀ n : Fin 39, n.val = 3 ∨ n.val = 16 ∨ n.val = 29 → (presenceMask 22#8).getLsbD n.val = false := by
  decide

theorem absent_21 : ∀ n : Fin 39, n.val ≤ 3 ∨ (13 ≤ n.val ∧ n.val ≤ 16) ∨ n.val = 29 →
    (presenceMask 21#8).getLsbD n.val = false := by
  decide

theorem absent_10 (c : Curve) (n : Fin 39) (h : n.val = 13 * curveNumber c ∨ n.val = 13 * curveNumber c + 1) :
    (presenceMask 10#8).getLsbD n.val = false := by
  rw [presenceMask_10]
  exact decide_eq_false (by omega)

/-- An absent register keeps its word (log entry 8). -/
theorem word_finishedDecode_absent {f : Byte} (known : recognised f = true) (o : CurveOrder) (m : Memory) {n : Fin 39}
    (absent : (presenceMask f).getLsbD n.val = false) (cur : BitVec 8) (scale : Byte) (s : State) :
    (finishedDecode f cur scale (frameValue f o m) s).word n.val = s.word n.val := by
  have noResult : frameValue f o m n.val = none := by rw [frameValue_eq known, absent]; rfl
  rw [word_eq_getElem_r _ n.isLt, word_eq_getElem_r s n.isLt]
  exact storeResults_none n.isLt noResult

/-- Settles O52: the hidden state is what `finishedDecode` was given, and the mask's zeros are the absent registers. -/
theorem finishedCommandsLeaveTheHiddenState : Obligations.FinishedCommandsLeaveTheHiddenState := by
  refine ⟨fun s idle long => ?_, fun s idle long => ?_, fun s idle long => ?_⟩
  · refine ⟨_, exec_dec22_data idle long, fun n absent => ?_, rfl, rfl, rfl⟩
    exact word_finishedDecode_absent (f := 22#8) rfl s.order s.fb (absent_22 ⟨n, by omega⟩ absent) _ _ s
  · refine ⟨_, exec_dec21_data idle long, fun n absent => ?_, rfl, rfl, rfl⟩
    exact word_finishedDecode_absent (f := 21#8) rfl s.order s.fb (absent_21 ⟨n, by omega⟩ absent) _ _ s
  · refine ⟨_, exec_dec10_data idle long, fun c => ?_, rfl, rfl, rfl⟩
    have := curveNumber_le c
    exact ⟨word_finishedDecode_absent (f := 10#8) rfl s.order s.fb (absent_10 c ⟨13 * curveNumber c, by omega⟩ (.inl rfl)) _ _ s,
      word_finishedDecode_absent (f := 10#8) rfl s.order s.fb (absent_10 c ⟨13 * curveNumber c + 1, by omega⟩ (.inr rfl)) _ _ s⟩

/-! ## The registers that a layout leaves present (R13) -/

theorem present_22 (c : Curve) {n : Fin 39} {t : Nat} (slot : t ≤ 12) (notPeak : t ≠ 3) (place : n.val = 13 * curveNumber c + t) :
    (presenceMask 22#8).getLsbD n.val = true := by
  rw [presenceMask_22]
  exact decide_eq_true (by omega)

/-- The Z summaries are the only summaries of format 21. -/
theorem present_21_summary {n : Fin 39} {j : Nat} (small : j ≤ 2) (place : n.val = 26 + j) :
    (presenceMask 21#8).getLsbD n.val = true := by
  have curve : curveOf n.val = .lz := by rw [place]; exact curveOf_slot .lz (by omega)
  rw [presenceMask_21]
  exact decide_eq_true ⟨by omega, fun _ => curve⟩

theorem present_21_band (c : Curve) {n : Fin 39} {k : Nat} (band : k ≤ 8) (place : n.val = 13 * curveNumber c + 4 + k) :
    (presenceMask 21#8).getLsbD n.val = true := by
  rw [presenceMask_21]
  exact decide_eq_true ⟨by omega, fun summary => by omega⟩

theorem present_10 (c : Curve) {n : Fin 39} {t : Nat} (low : 2 ≤ t) (high : t ≤ 12) (place : n.val = 13 * curveNumber c + t) :
    (presenceMask 10#8).getLsbD n.val = true := by
  rw [presenceMask_10]
  exact decide_eq_true (by omega)

/-! ## What a register denotes (R7) -/

section Denotes

variable {f : Byte} {cur : BitVec 8} {scale : Byte} {q : Nat → Option Int} {s : State} {n : Fin 39}

/-- A present register denotes its integer over the unit of the layout. -/
theorem value?_finishedDecode {v : Int} {x : ℚ} (present : (presenceMask f).getLsbD n.val = true)
    (value : (finishedDecode f cur scale q s).q n.val = v) (denotes : (v : ℚ) / ((unitOf f).toNat : ℚ) = x) :
    (finishedDecode f cur scale q s).value? n = some x := by
  rw [value?_present (s := finishedDecode f cur scale q s) present, value, finishedDecode_unit, denotes]

theorem value?_finishedDecode_absent (absent : (presenceMask f).getLsbD n.val = false) :
    (finishedDecode f cur scale q s).value? n = none :=
  value?_absent (s := finishedDecode f cur scale q s) absent

end Denotes

theorem toNat_unitOf_22 : (unitOf 22#8).toNat = 510 := rfl
theorem toNat_unitOf_21 : (unitOf 21#8).toNat = 10 := rfl

/-! ### Format 22 -/

/-- `2·s·r` over 510 is `(s / 255)·r`. -/
theorem scaled_over_unit (a b : Int) : ((2 * a * b : Int) : ℚ) / ((unitOf 22#8).toNat : ℚ) = (a : ℚ) / 255 * (b : ℚ) := by
  rw [toNat_unitOf_22]
  push_cast
  ring

/-- The factor 51 makes an offset in 510ths out of one in tenths (R132). -/
theorem weighted_over_unit (a b o : Int) :
    ((2 * a * b + 51 * o : Int) : ℚ) / ((unitOf 22#8).toNat : ℚ) = (a : ℚ) / 255 * (b : ℚ) + (o : ℚ) / 10 := by
  rw [toNat_unitOf_22]
  push_cast
  ring

theorem value?_summary22 (s : State) (cur : BitVec 8) (scale : Byte) (c : Curve) {n : Fin 39} {j : Nat} (small : j ≤ 2)
    (place : n.val = 13 * curveNumber c + j) :
    (finishedDecode 22#8 cur scale (value22 s.fb) s).value? n
      = some ((wireByte s.fb 0 : ℚ) / 255 * (wireByte s.fb (1 + 3 * curveNumber c + j) : ℚ)) :=
  value?_finishedDecode (present_22 c (by omega) (by omega) place) (place ▸ q_summary22 s cur scale c small) (scaled_over_unit _ _)

theorem value?_band22 (s : State) (cur : BitVec 8) (scale : Byte) (c : Curve) {n : Fin 39} {k : Nat} (band : k ≤ 8)
    (place : n.val = 13 * curveNumber c + 4 + k) :
    (finishedDecode 22#8 cur scale (value22 s.fb) s).value? n
      = some ((wireByte s.fb 0 : ℚ) / 255 * (wireByte s.fb (10 + k) : ℚ) + (curveOffset c k : ℚ) / 10) :=
  value?_finishedDecode (present_22 c (by omega) (by omega) (place.trans (Nat.add_assoc _ _ _)))
    (place ▸ q_band22 s cur scale c band) (weighted_over_unit _ _ _)

/-! ### Formats 21 and 10 -/

theorem value?_summary21 (s : State) (cur : BitVec 8) (scale : Byte) {n : Fin 39} {j : Nat} (small : j ≤ 2)
    (place : n.val = 26 + j) :
    (finishedDecode 21#8 cur scale (value21 s.fb) s).value? n = some ((wireField s.fb j : ℚ) / 10) :=
  value?_finishedDecode (present_21_summary small place) (place ▸ q_field (by omega) (value21_summary s.fb small)) rfl

theorem value?_band21 (s : State) (cur : BitVec 8) (scale : Byte) (c : Curve) {n : Fin 39} {k : Nat} (band : k ≤ 8)
    (place : n.val = 13 * curveNumber c + 4 + k) :
    (finishedDecode 21#8 cur scale (value21 s.fb) s).value? n
      = some ((wireField s.fb (3 + k) : ℚ) / 10 + (curveOffset c k : ℚ) / 10) := by
  refine value?_finishedDecode (present_21_band c band place) (place ▸ q_band21 s cur scale c band) ?_
  rw [toNat_unitOf_21]
  push_cast
  ring

/-- Every present register of format 10 holds one field (R152). -/
theorem value?_field10 (s : State) (cur : BitVec 8) (scale : Byte) (c : Curve) {n : Fin 39} {t j : Nat} (low : 2 ≤ t)
    (high : t ≤ 12) (place : n.val = 13 * curveNumber c + t) (value : value10 s.order s.fb n.val = some (wireField s.fb j)) :
    (finishedDecode 10#8 cur scale (value10 s.order s.fb) s).value? n = some ((wireField s.fb j : ℚ) / 10) :=
  value?_finishedDecode (present_10 c low high place) (q_field (by omega) value) rfl

/-! ### The statement -/

/-- Settles O29: each register by its curve and slot, each absent one by its presence bit. -/
theorem denotedValuesAreExact : Obligations.DenotedValuesAreExact := by
  refine ⟨fun s idle long => ⟨_, exec_dec22_data idle long, fun j n small => ?_, fun k n band => ?_, fun n absent => ?_⟩,
    fun s idle long => ⟨_, exec_dec21_data idle long, fun j n => value?_summary21 s _ _, fun k n band => ?_, fun n absent => ?_⟩,
    fun s idle long => ⟨_, exec_dec10_data idle long, fun m c n place => ?_, fun c n absent => ?_⟩⟩
  · refine ⟨fun place => ?_, value?_summary22 s _ _ .lc small, value?_summary22 s _ _ .lz small⟩
    exact value?_summary22 s _ _ .la small (place.trans (Nat.zero_add j).symm)
  · refine ⟨fun place => ?_, value?_band22 s _ _ .la band, value?_band22 s _ _ .lc band⟩
    simpa [curveOffset] using value?_band22 s 38#8 (Memory.read s.fb 0) .lz band place
  · exact value?_finishedDecode_absent (absent_22 n absent)
  · refine ⟨fun place => ?_, value?_band21 s _ _ .la band, value?_band21 s _ _ .lc band⟩
    simpa [curveOffset] using value?_band21 s 36#8 s.scale .lz band place
  · exact value?_finishedDecode_absent (absent_21 n absent)
  · obtain rfl := orderPlace_of_getElem? place
    refine ⟨fun k band number => ?_, fun number => ?_, fun number => ?_⟩
    · exact value?_field10 s _ _ c (by omega) (by omega) (number.trans (Nat.add_assoc _ _ _))
        (number ▸ value10_band s.order s.fb c band)
    · exact value?_field10 s _ _ c (by omega) (by omega) number (number ▸ value10_peak s.order s.fb c)
    · exact value?_field10 s _ _ c (by omega) (by omega) number (number ▸ value10_average s.order s.fb c)
  · exact value?_finishedDecode_absent (absent_10 c n absent)

end Sys2Proof.Machine
end
